-- ==== Sys2Proof/Machine/Literals.lean ====
section
/-! DEFINITION. The numeric literals of the document (00_scope.md R6, R9; 93_implementation_defined.md U12), each in one place: a check against
the repository's source changes one here. The definitions take their numbers and their widths from these; the statements and the tests state the
values the spec gives. -/

namespace Sys2Proof

/-- 2048, the bytes of the read-only variant (R7). -/
def Config.readOnlyBytes : Nat := 2048

/-- 8192, the bytes of the read/write variant (R7). -/
def Config.readWriteBytes : Nat := 8192

/-- 32, the bits of the target address (R9) and `CRC_WIDTH` (R8); by decision also of the windows, the count and the length (R9). -/
def Config.wordBits : Nat := 32

/-- 8, the bits of a byte (R9) and of one shift of the length (R182). -/
def Config.byteBits : Nat := 8

/-- 4, the bits of one hex digit (R9). -/
def Config.digitBits : Nat := 4

/-- 16, the bytes of a dump line (R9, R120). -/
def Config.lineBytes : Nat := 16

/-- 6, the hex digits of a printed address (R9, R122). -/
def Config.addrDigits : Nat := 6

/-- 2, the hex digits of a byte (R9, R123). -/
def Config.byteDigits : Nat := 2

/-- 56, the characters of a dump line (R79). It follows from the others (`Config.lineChars_eq` in Sys2Proof/Laws/Literals.lean) and changes
with them; it is written out because it is the bound of a type. -/
def Config.lineChars : Nat := 56

/-- The position of the colon, after the address digits (R79). -/
def Config.colonPos : Nat := Config.addrDigits

/-- The position of the space before the first byte (R79). -/
def Config.firstBytePos : Nat := Config.addrDigits + 1

/-- The characters of one byte of a line: a space and its digits (R79). -/
def Config.byteChars : Nat := 1 + Config.byteDigits

/-- The position of the line feed, the last of the line (R79). -/
def Config.eolPos : Nat := Config.lineChars - 1

/-- 2^24, the first address that does not fit the printed digits (R110, R122). -/
def Config.addrLimit : Nat := 2 ^ (Config.digitBits * Config.addrDigits)

end Sys2Proof
end

