-- ==== Sys2Proof/Word.lean ====
section
/-! DEFINITION. The word types of PRX: bytes, 32-bit registers, nibbles, 9-bit symbols, and the indices within a dump line (00_scope.md R9, R13;
30_encoding.md R70, R79). Their sizes are the literals of Machine/Literals.lean, written into the types by `delta%`. -/

namespace Sys2Proof

/-- A byte of the memory image or a character (R9). -/
abbrev Byte := BitVec (delta% Config.byteBits)

/-- A 32-bit register; arithmetic on it is modulo 2^32 (R13). -/
abbrev Word := BitVec (delta% Config.wordBits)

/-- Four bits, one hex digit (R18). -/
abbrev Nibble := BitVec (delta% Config.digitBits)

/-- A symbol of the character source in format `SYM9`: bit 8 is `eof`, bits 7 to 0 are `ch` (R70). -/
abbrev Sym := BitVec 9

/-- The number of an address digit in a dump line (R122). -/
abbrev AddrIdx := Fin (delta% Config.addrDigits)

/-- The number of a byte in a dump line (R120). -/
abbrev ByteIdx := Fin (delta% Config.lineBytes)

/-- A position in a dump line (R79). -/
abbrev LinePos := Fin (delta% Config.lineChars)

end Sys2Proof
end

