-- ==== Sys2Proof/Syntax.lean ====
section
/-! DEFINITION. The instructions of PRX: one constructor per row of spec/opcode_table.json (30_encoding.md R81, R84). A row's free bits are
the constructor's operand. PRX has no instruction words (R14, D1): an instruction is one step of one unit or one host command. -/

namespace Sys2Proof

/-- The parser's state (10_state.md R24). The code 3 is unrepresentable (R83). -/
inductive PState where
  | address
  | byteHighNibble
  | byteLowNibble
  deriving DecidableEq, Repr

/-- One constructor per row of the opcode table. -/
inductive Instr where
  /-- `P.EOF` (R142): the sentinel in any state; `ch` is ignored. -/
  | pEof (ch : BitVec 8)
  /-- `A_HEX_0_7` (R143, step `A.HEX`): a hex digit in state ADDRESS. -/
  | aHex07 (lo : BitVec 3)
  /-- `A_HEX_8_9` (R143, step `A.HEX`): a hex digit in state ADDRESS. -/
  | aHex89 (lo : BitVec 1)
  /-- `A_HEX_UA` (R143, step `A.HEX`): a hex digit in state ADDRESS. -/
  | aHexUA
  /-- `A_HEX_UB_UC` (R143, step `A.HEX`): a hex digit in state ADDRESS. -/
  | aHexUBUC (lo : BitVec 1)
  /-- `A_HEX_UD_UE` (R143, step `A.HEX`): a hex digit in state ADDRESS. -/
  | aHexUDUE (lo : BitVec 1)
  /-- `A_HEX_UF` (R143, step `A.HEX`): a hex digit in state ADDRESS. -/
  | aHexUF
  /-- `A_HEX_LA` (R143, step `A.HEX`): a hex digit in state ADDRESS. -/
  | aHexLA
  /-- `A_HEX_LB_LC` (R143, step `A.HEX`): a hex digit in state ADDRESS. -/
  | aHexLBLC (lo : BitVec 1)
  /-- `A_HEX_LD_LE` (R143, step `A.HEX`): a hex digit in state ADDRESS. -/
  | aHexLDLE (lo : BitVec 1)
  /-- `A_HEX_LF` (R143, step `A.HEX`): a hex digit in state ADDRESS. -/
  | aHexLF
  /-- `A_SP` (R144): a space in state ADDRESS. -/
  | aSp
  /-- `A_COLON` (R145): a colon in state ADDRESS. -/
  | aColon
  /-- `A_LT` (R146): a line terminator in state ADDRESS. -/
  | aLt
  /-- `A_OTHER` (R147): a character of class OTHER in state ADDRESS. -/
  | aOther (ch : BitVec 8)
  /-- `H_HEX_0_7` (R149, step `H.HEX`): a hex digit in state BYTE_HIGH_NIBBLE. -/
  | hHex07 (lo : BitVec 3)
  /-- `H_HEX_8_9` (R149, step `H.HEX`): a hex digit in state BYTE_HIGH_NIBBLE. -/
  | hHex89 (lo : BitVec 1)
  /-- `H_HEX_UA` (R149, step `H.HEX`): a hex digit in state BYTE_HIGH_NIBBLE. -/
  | hHexUA
  /-- `H_HEX_UB_UC` (R149, step `H.HEX`): a hex digit in state BYTE_HIGH_NIBBLE. -/
  | hHexUBUC (lo : BitVec 1)
  /-- `H_HEX_UD_UE` (R149, step `H.HEX`): a hex digit in state BYTE_HIGH_NIBBLE. -/
  | hHexUDUE (lo : BitVec 1)
  /-- `H_HEX_UF` (R149, step `H.HEX`): a hex digit in state BYTE_HIGH_NIBBLE. -/
  | hHexUF
  /-- `H_HEX_LA` (R149, step `H.HEX`): a hex digit in state BYTE_HIGH_NIBBLE. -/
  | hHexLA
  /-- `H_HEX_LB_LC` (R149, step `H.HEX`): a hex digit in state BYTE_HIGH_NIBBLE. -/
  | hHexLBLC (lo : BitVec 1)
  /-- `H_HEX_LD_LE` (R149, step `H.HEX`): a hex digit in state BYTE_HIGH_NIBBLE. -/
  | hHexLDLE (lo : BitVec 1)
  /-- `H_HEX_LF` (R149, step `H.HEX`): a hex digit in state BYTE_HIGH_NIBBLE. -/
  | hHexLF
  /-- `H_SP` (R150): a space in state BYTE_HIGH_NIBBLE. -/
  | hSp
  /-- `H_COLON` (R152): a colon in state BYTE_HIGH_NIBBLE. -/
  | hColon
  /-- `H_LT` (R151): a line terminator in state BYTE_HIGH_NIBBLE. -/
  | hLt
  /-- `H_OTHER` (R152): a character of class OTHER in state BYTE_HIGH_NIBBLE. -/
  | hOther (ch : BitVec 8)
  /-- `L_HEX_0_7` (R153, step `L.HEX`): a hex digit in state BYTE_LOW_NIBBLE. -/
  | lHex07 (lo : BitVec 3)
  /-- `L_HEX_8_9` (R153, step `L.HEX`): a hex digit in state BYTE_LOW_NIBBLE. -/
  | lHex89 (lo : BitVec 1)
  /-- `L_HEX_UA` (R153, step `L.HEX`): a hex digit in state BYTE_LOW_NIBBLE. -/
  | lHexUA
  /-- `L_HEX_UB_UC` (R153, step `L.HEX`): a hex digit in state BYTE_LOW_NIBBLE. -/
  | lHexUBUC (lo : BitVec 1)
  /-- `L_HEX_UD_UE` (R153, step `L.HEX`): a hex digit in state BYTE_LOW_NIBBLE. -/
  | lHexUDUE (lo : BitVec 1)
  /-- `L_HEX_UF` (R153, step `L.HEX`): a hex digit in state BYTE_LOW_NIBBLE. -/
  | lHexUF
  /-- `L_HEX_LA` (R153, step `L.HEX`): a hex digit in state BYTE_LOW_NIBBLE. -/
  | lHexLA
  /-- `L_HEX_LB_LC` (R153, step `L.HEX`): a hex digit in state BYTE_LOW_NIBBLE. -/
  | lHexLBLC (lo : BitVec 1)
  /-- `L_HEX_LD_LE` (R153, step `L.HEX`): a hex digit in state BYTE_LOW_NIBBLE. -/
  | lHexLDLE (lo : BitVec 1)
  /-- `L_HEX_LF` (R153, step `L.HEX`): a hex digit in state BYTE_LOW_NIBBLE. -/
  | lHexLF
  /-- `L_SP` (R154): a space in state BYTE_LOW_NIBBLE. -/
  | lSp
  /-- `L_COLON` (R156): a colon in state BYTE_LOW_NIBBLE. -/
  | lColon
  /-- `L_LT` (R155): a line terminator in state BYTE_LOW_NIBBLE. -/
  | lLt
  /-- `L_OTHER` (R156): a character of class OTHER in state BYTE_LOW_NIBBLE. -/
  | lOther (ch : BitVec 8)
  /-- `NOP` (R102). -/
  | nop
  /-- `CRC` (R103). -/
  | crc
  /-- `LOAD` (R104). -/
  | load
  /-- `DUMP` (R105). -/
  | dump
  /-- `S.ADDR` (R126): address digit `k` of a line, `spos = k`. -/
  | sAddr (k : AddrIdx)
  /-- `S.COLON` (R127): `spos = 6`. -/
  | sColon
  /-- `S.SPACE` (R128): the space before byte `i` of a line, `spos = 7 + 3 i`. -/
  | sSpace (i : ByteIdx)
  /-- `S.HI` (R129): the high digit of byte `i`, `spos = 8 + 3 i`. -/
  | sHi (i : ByteIdx)
  /-- `S.LO` (R130): the low digit of byte `i`, `spos = 9 + 3 i`. -/
  | sLo (i : ByteIdx)
  /-- `S.EOL` (R131): `spos = 55`. -/
  | sEol
  /-- `C.BYTE` (R185): `cphase = C_DATA`. -/
  | cByte
  /-- `C.LEN` (R186): `cphase = C_LEN` and `crem` not 0. -/
  | cLen
  /-- `C.FIN` (R187): `cphase = C_LEN` and `crem = 0`. -/
  | cFin
  deriving DecidableEq, Repr

end Sys2Proof
end

