-- ==== Sys2Proof/WellFormed.lean ====
section
/-! DEFINITION. Which instructions are well formed. The operands' types leave one check: the character of an `OTHER` row belongs to no other
class (30_encoding.md R74). It is written from R74's Condition column, not from the match and mask pairs the decoder uses. -/

namespace Sys2Proof

/-- `ch` is a hex digit: 0x30..0x39, 0x41..0x46 or 0x61..0x66 (R74, class HEX). -/
abbrev isHexDigit (ch : Byte) : Prop :=
  (0x30#8 ≤ ch ∧ ch ≤ 0x39#8) ∨ (0x41#8 ≤ ch ∧ ch ≤ 0x46#8) ∨ (0x61#8 ≤ ch ∧ ch ≤ 0x66#8)

/-- `ch` is of class `OTHER`: no hex digit, no space, no colon, no line feed (R74, R75). -/
abbrev isOther (ch : Byte) : Prop :=
  ¬ isHexDigit ch ∧ ch ≠ 0x20#8 ∧ ch ≠ 0x3A#8 ∧ ch ≠ 0x0A#8

/-- An instruction is well formed when the character of an `OTHER` row is of class `OTHER`. -/
def Instr.wf : Instr → Bool
  | .aOther ch => decide (isOther ch)
  | .hOther ch => decide (isOther ch)
  | .lOther ch => decide (isOther ch)
  | .pEof _ | .aHex07 _ | .aHex89 _ | .aHexUA | .aHexUBUC _ | .aHexUDUE _ | .aHexUF | .aHexLA | .aHexLBLC _
  | .aHexLDLE _ | .aHexLF | .aSp | .aColon | .aLt | .hHex07 _ | .hHex89 _ | .hHexUA | .hHexUBUC _
  | .hHexUDUE _ | .hHexUF | .hHexLA | .hHexLBLC _ | .hHexLDLE _ | .hHexLF | .hSp | .hColon | .hLt | .lHex07 _
  | .lHex89 _ | .lHexUA | .lHexUBUC _ | .lHexUDUE _ | .lHexUF | .lHexLA | .lHexLBLC _ | .lHexLDLE _ | .lHexLF
  | .lSp | .lColon | .lLt | .nop | .crc | .load | .dump | .sAddr _ | .sColon | .sSpace _ | .sHi _ | .sLo _
  | .sEol | .cByte | .cLen | .cFin => true

end Sys2Proof
end

