-- ==== Sys2Proof/Decode.lean ====
section
/-! DEFINITION. The decoder and, after it, the encoder (30_encoding.md sections 1, 2 and 7). What PRX decodes is a symbol under the parser's
state, a command code, or one of its two internal selectors (R72). -/

namespace Sys2Proof

/-! ## What is decoded -/

/-- The bits that select a step, in the table's four formats (R70 to R72, R84). A `SYM9` row is selected by the symbol and `pstate`, and the
two rows of `C_LEN` are told apart by whether `crem` is 0 (R186, R187). -/
inductive Item where
  /-- `CMD2`: the code written to `CMD` (R71). -/
  | cmd (code : BitVec 2)
  /-- `SYM9`: a symbol met in parser state `p` (R70, R141). -/
  | sym (p : PState) (s : Sym)
  /-- `SPOS6`: the position within a dump line (R72). -/
  | spos (pos : BitVec 6)
  /-- `CPHASE2`: the CRC unit's phase, and whether `crem` is 0 (R72). -/
  | cphase (phase : BitVec 2) (remZero : Bool)
  deriving DecidableEq, Repr

/-- Why an item selects no instruction. -/
inductive Reject where
  /-- `spos` 56 to 63, produced by no rule (R83). -/
  | reservedSpos
  /-- `cphase` 3, written by no rule (R83, R184). -/
  | reservedCphase
  /-- `cphase` 2 (`C_DONE`): the unit is finished and no step is selected (R33). -/
  | finishedCphase
  deriving DecidableEq, Repr

/-! ## Symbols -/

/-- The fifteen patterns of R74: `EOF`, ten for `HEX`, `SP`, `COLON`, `LT` and the catch-all `OTHER`. -/
inductive SymPat where
  | eof | d07 | d89 | uA | uBuC | uDuE | uF | lA | lBlC | lDlE | lF | sp | colon | lt | other
  deriving DecidableEq, Repr

/-- The six classes of R74. -/
inductive SymClass where
  | eof | hex | sp | colon | lt | other
  deriving DecidableEq, Repr

/-- One row of R74's table: a symbol `s` matches when `s &&& mask = pattern`. -/
structure SymRow where
  pat : SymPat
  pattern : Sym
  mask : Sym
  deriving DecidableEq, Repr

/-- R74's table in priority order, without the catch-all. -/
def symRows : List SymRow :=
  [ ⟨.eof, 0x100#9, 0x100#9⟩,
    ⟨.d07, 0x030#9, 0x1F8#9⟩,
    ⟨.d89, 0x038#9, 0x1FE#9⟩,
    ⟨.uA, 0x041#9, 0x1FF#9⟩,
    ⟨.uBuC, 0x042#9, 0x1FE#9⟩,
    ⟨.uDuE, 0x044#9, 0x1FE#9⟩,
    ⟨.uF, 0x046#9, 0x1FF#9⟩,
    ⟨.lA, 0x061#9, 0x1FF#9⟩,
    ⟨.lBlC, 0x062#9, 0x1FE#9⟩,
    ⟨.lDlE, 0x064#9, 0x1FE#9⟩,
    ⟨.lF, 0x066#9, 0x1FF#9⟩,
    ⟨.sp, 0x020#9, 0x1FF#9⟩,
    ⟨.colon, 0x03A#9, 0x1FF#9⟩,
    ⟨.lt, 0x00A#9, 0x1FF#9⟩ ]

/-- The first row that matches decides; no row is the catch-all `OTHER` (R74). -/
def matchRows (s : Sym) : List SymRow → SymPat
  | [] => .other
  | r :: rs => if s &&& r.mask = r.pattern then r.pat else matchRows s rs

/-- The pattern a symbol belongs to (R74). -/
def symPat (s : Sym) : SymPat := matchRows s symRows

/-- The class a pattern belongs to (R74). -/
def SymPat.cls : SymPat → SymClass
  | .eof => .eof
  | .d07 | .d89 | .uA | .uBuC | .uDuE | .uF | .lA | .lBlC | .lDlE | .lF => .hex
  | .sp => .sp
  | .colon => .colon
  | .lt => .lt
  | .other => .other

/-- The class of a symbol (R74). -/
def classify (s : Sym) : SymClass := (symPat s).cls

/-- `ch`, bits 7 to 0 of a symbol (R70). -/
def symCh (s : Sym) : Byte := s.extractLsb' 0 _

/-- The low bits a hex row leaves free. -/
def symLow3 (s : Sym) : BitVec 3 := s.extractLsb' 0 3

/-- The low bit a hex row leaves free. -/
def symLow1 (s : Sym) : BitVec 1 := s.extractLsb' 0 1

/-- The symbol that carries the character `ch`: `eof = 0` (R70). -/
def charSym (ch : Byte) : Sym := 0#1 ++ ch

/-- The sentinel with `ch` below it: `eof = 1` (R70). -/
def eofSym (ch : Byte) : Sym := 1#1 ++ ch

/-- The row a symbol selects in state ADDRESS (R84, R141). -/
def decodeAddress (s : Sym) : Instr :=
  match symPat s with
  | .eof => .pEof (symCh s)
  | .d07 => .aHex07 (symLow3 s)
  | .d89 => .aHex89 (symLow1 s)
  | .uA => .aHexUA
  | .uBuC => .aHexUBUC (symLow1 s)
  | .uDuE => .aHexUDUE (symLow1 s)
  | .uF => .aHexUF
  | .lA => .aHexLA
  | .lBlC => .aHexLBLC (symLow1 s)
  | .lDlE => .aHexLDLE (symLow1 s)
  | .lF => .aHexLF
  | .sp => .aSp
  | .colon => .aColon
  | .lt => .aLt
  | .other => .aOther (symCh s)

/-- The row a symbol selects in state BYTE_HIGH_NIBBLE (R84, R141). -/
def decodeHigh (s : Sym) : Instr :=
  match symPat s with
  | .eof => .pEof (symCh s)
  | .d07 => .hHex07 (symLow3 s)
  | .d89 => .hHex89 (symLow1 s)
  | .uA => .hHexUA
  | .uBuC => .hHexUBUC (symLow1 s)
  | .uDuE => .hHexUDUE (symLow1 s)
  | .uF => .hHexUF
  | .lA => .hHexLA
  | .lBlC => .hHexLBLC (symLow1 s)
  | .lDlE => .hHexLDLE (symLow1 s)
  | .lF => .hHexLF
  | .sp => .hSp
  | .colon => .hColon
  | .lt => .hLt
  | .other => .hOther (symCh s)

/-- The row a symbol selects in state BYTE_LOW_NIBBLE (R84, R141). -/
def decodeLow (s : Sym) : Instr :=
  match symPat s with
  | .eof => .pEof (symCh s)
  | .d07 => .lHex07 (symLow3 s)
  | .d89 => .lHex89 (symLow1 s)
  | .uA => .lHexUA
  | .uBuC => .lHexUBUC (symLow1 s)
  | .uDuE => .lHexUDUE (symLow1 s)
  | .uF => .lHexUF
  | .lA => .lHexLA
  | .lBlC => .lHexLBLC (symLow1 s)
  | .lDlE => .lHexLDLE (symLow1 s)
  | .lF => .lHexLF
  | .sp => .lSp
  | .colon => .lColon
  | .lt => .lLt
  | .other => .lOther (symCh s)

/-- The instruction a symbol selects in parser state `p`: exactly one for every symbol in every state (R141, R82). -/
def decodeSym (p : PState) (s : Sym) : Instr :=
  match p with
  | .address => decodeAddress s
  | .byteHighNibble => decodeHigh s
  | .byteLowNibble => decodeLow s

/-! ## Commands and selectors -/

/-- The command codes (R73); all four are defined. -/
def decodeCmd (code : BitVec 2) : Instr :=
  match code.toNat with
  | 0 => .nop
  | 1 => .crc
  | 2 => .load
  | _ => .dump

/-- A position below the line feed's belongs to one of the line's bytes. -/
theorem byteIdx_lt {p : Nat} (h : p < Config.eolPos) : (p - Config.firstBytePos) / Config.byteChars < Config.lineBytes := by
  simp only [Config.eolPos, Config.lineChars, Config.firstBytePos, Config.addrDigits, Config.byteChars, Config.byteDigits,
    Config.lineBytes] at *
  omega

/-- The positions of a byte's characters lie in the line. -/
theorem bytePos_lt (i : ByteIdx) {j : Nat} (h : j ≤ Config.byteChars) :
    Config.firstBytePos + j + Config.byteChars * i.val < Config.lineChars := by
  have := i.isLt
  simp only [Config.lineChars, Config.firstBytePos, Config.addrDigits, Config.byteChars, Config.byteDigits] at *
  omega

/-- The positions of the address digits and of the colon lie in the line. -/
theorem addrPos_lt (k : AddrIdx) : k.val + 1 < Config.lineChars := by
  have := k.isLt
  simp only [Config.lineChars]
  omega

/-- The serializer step of position `pos` (R126 to R131): with `k = pos - 7`, `k div 3` is the byte and `k mod 3` the
character. -/
def decodeSpos (pos : BitVec 6) : Except Reject Instr :=
  if h : pos.toNat < Config.addrDigits then .ok (.sAddr ⟨pos.toNat, h⟩)
  else if pos.toNat = Config.colonPos then .ok .sColon
  else if h : pos.toNat < Config.eolPos then
    let k := pos.toNat - Config.firstBytePos
    have hk : k / Config.byteChars < Config.lineBytes := byteIdx_lt h
    if k % Config.byteChars = 0 then .ok (.sSpace ⟨k / Config.byteChars, hk⟩)
    else if k % Config.byteChars = 1 then .ok (.sHi ⟨k / Config.byteChars, hk⟩)
    else .ok (.sLo ⟨k / Config.byteChars, hk⟩)
  else if pos.toNat = Config.eolPos then .ok .sEol
  else .error .reservedSpos

/-- The CRC unit's step (R185 to R187). -/
def decodeCphase (phase : BitVec 2) (remZero : Bool) : Except Reject Instr :=
  match phase.toNat with
  | 0 => .ok .cByte
  | 1 => .ok (if remZero then .cFin else .cLen)
  | 2 => .error .finishedCphase
  | _ => .error .reservedCphase

/-- The decoder: total, rejecting by name. -/
def decode : Item → Except Reject Instr
  | .cmd code => .ok (decodeCmd code)
  | .sym p s => .ok (decodeSym p s)
  | .spos pos => decodeSpos pos
  | .cphase phase remZero => decodeCphase phase remZero

/-! ## Table words -/

/-- DESIGN CHOICE (log 14). The item a table word stands for. The rows of one format share their bits and are told apart by state, so the
bits above the table's select what the table's `pstate` and `select` fields say: of a 16-bit word bits 10 to 9 are the code of `pstate` (R24);
of an 8-bit word bits 7 to 6 are 0 for a command (a value above 3 is then a position), 1 for `spos`, 2 for `cphase` with bit 2 set when `crem`
is not 0. -/
def itemOfTableWord (nbits w : Nat) : Option Item :=
  if nbits ≤ 8 then
    match w / 64 % 4 with
    | 0 => if w % 64 < 4 then some (.cmd (BitVec.ofNat 2 w)) else some (.spos (BitVec.ofNat 6 w))
    | 1 => some (.spos (BitVec.ofNat 6 w))
    | 2 => some (.cphase (BitVec.ofNat 2 w) (w / 4 % 2 == 0))
    | _ => none
  else if nbits ≤ 16 then
    match w / 512 % 4 with
    | 0 => some (.sym .address (BitVec.ofNat 9 w))
    | 1 => some (.sym .byteHighNibble (BitVec.ofNat 9 w))
    | 2 => some (.sym .byteLowNibble (BitVec.ofNat 9 w))
    | _ => none
  else none

/-- The instruction the decoder reads from a table word (log 14); none where it refuses. -/
def decodeTableWord (nbits w : Nat) : Option Instr :=
  match itemOfTableWord nbits w with
  | none => none
  | some x =>
    match decode x with
    | .ok i => some i
    | .error _ => none

/-! ## The characters of the hex rows and the positions of the serializer rows -/

/-- `0` to `7`: 0x30 with three free bits (R74). -/
def ch07 (lo : BitVec 3) : Byte := 0b00110#5 ++ lo

/-- `8` and `9` (R74). -/
def ch89 (lo : BitVec 1) : Byte := 0b0011100#7 ++ lo

/-- `B` and `C` (R74). -/
def chUBUC (lo : BitVec 1) : Byte := 0b0100001#7 ++ lo

/-- `D` and `E` (R74). -/
def chUDUE (lo : BitVec 1) : Byte := 0b0100010#7 ++ lo

/-- `b` and `c` (R74). -/
def chLBLC (lo : BitVec 1) : Byte := 0b0110001#7 ++ lo

/-- `d` and `e` (R74). -/
def chLDLE (lo : BitVec 1) : Byte := 0b0110010#7 ++ lo

/-- `A` (R10). -/
def chUA : Byte := 0x41#8

/-- `F` (R10). -/
def chUF : Byte := 0x46#8

/-- `a` (R10). -/
def chLA : Byte := 0x61#8

/-- `f` (R10). -/
def chLF : Byte := 0x66#8

/-- `CH_SP` (R10). -/
def chSp : Byte := 0x20#8

/-- `CH_COLON` (R10). -/
def chColon : Byte := 0x3A#8

/-- `CH_LT`, line feed (R10, D5). -/
def chLt : Byte := 0x0A#8

/-- The position of address digit `k` (R79). -/
def posAddr (k : AddrIdx) : LinePos := ⟨k.val, Nat.lt_of_succ_lt (addrPos_lt k)⟩

/-- The position of the colon (R79). -/
def posColon : LinePos := ⟨Config.colonPos, by decide⟩

/-- The position of the space before byte `i` (R79). -/
def posSpace (i : ByteIdx) : LinePos := ⟨Config.firstBytePos + Config.byteChars * i.val, bytePos_lt i (j := 0) (by decide)⟩

/-- The position of the high digit of byte `i` (R79). -/
def posHi (i : ByteIdx) : LinePos := ⟨Config.firstBytePos + 1 + Config.byteChars * i.val, bytePos_lt i (j := 1) (by decide)⟩

/-- The position of the low digit of byte `i` (R79). -/
def posLo (i : ByteIdx) : LinePos := ⟨Config.firstBytePos + 2 + Config.byteChars * i.val, bytePos_lt i (j := 2) (by decide)⟩

/-- The position of the line feed (R79). -/
def posEol : LinePos := ⟨Config.eolPos, by decide⟩

/-- A position as its 6-bit selector (R72). -/
def sposCode (p : LinePos) : BitVec 6 := BitVec.ofNat 6 p.val

/-! ## The encoder -/

/-- The item an instruction stands for. `P.EOF` applies in every state and is encoded under ADDRESS. -/
def encode : Instr → Item
  | .pEof ch => .sym .address (eofSym ch)
  | .aHex07 lo => .sym .address (charSym (ch07 lo))
  | .aHex89 lo => .sym .address (charSym (ch89 lo))
  | .aHexUA => .sym .address (charSym chUA)
  | .aHexUBUC lo => .sym .address (charSym (chUBUC lo))
  | .aHexUDUE lo => .sym .address (charSym (chUDUE lo))
  | .aHexUF => .sym .address (charSym chUF)
  | .aHexLA => .sym .address (charSym chLA)
  | .aHexLBLC lo => .sym .address (charSym (chLBLC lo))
  | .aHexLDLE lo => .sym .address (charSym (chLDLE lo))
  | .aHexLF => .sym .address (charSym chLF)
  | .aSp => .sym .address (charSym chSp)
  | .aColon => .sym .address (charSym chColon)
  | .aLt => .sym .address (charSym chLt)
  | .aOther ch => .sym .address (charSym ch)
  | .hHex07 lo => .sym .byteHighNibble (charSym (ch07 lo))
  | .hHex89 lo => .sym .byteHighNibble (charSym (ch89 lo))
  | .hHexUA => .sym .byteHighNibble (charSym chUA)
  | .hHexUBUC lo => .sym .byteHighNibble (charSym (chUBUC lo))
  | .hHexUDUE lo => .sym .byteHighNibble (charSym (chUDUE lo))
  | .hHexUF => .sym .byteHighNibble (charSym chUF)
  | .hHexLA => .sym .byteHighNibble (charSym chLA)
  | .hHexLBLC lo => .sym .byteHighNibble (charSym (chLBLC lo))
  | .hHexLDLE lo => .sym .byteHighNibble (charSym (chLDLE lo))
  | .hHexLF => .sym .byteHighNibble (charSym chLF)
  | .hSp => .sym .byteHighNibble (charSym chSp)
  | .hColon => .sym .byteHighNibble (charSym chColon)
  | .hLt => .sym .byteHighNibble (charSym chLt)
  | .hOther ch => .sym .byteHighNibble (charSym ch)
  | .lHex07 lo => .sym .byteLowNibble (charSym (ch07 lo))
  | .lHex89 lo => .sym .byteLowNibble (charSym (ch89 lo))
  | .lHexUA => .sym .byteLowNibble (charSym chUA)
  | .lHexUBUC lo => .sym .byteLowNibble (charSym (chUBUC lo))
  | .lHexUDUE lo => .sym .byteLowNibble (charSym (chUDUE lo))
  | .lHexUF => .sym .byteLowNibble (charSym chUF)
  | .lHexLA => .sym .byteLowNibble (charSym chLA)
  | .lHexLBLC lo => .sym .byteLowNibble (charSym (chLBLC lo))
  | .lHexLDLE lo => .sym .byteLowNibble (charSym (chLDLE lo))
  | .lHexLF => .sym .byteLowNibble (charSym chLF)
  | .lSp => .sym .byteLowNibble (charSym chSp)
  | .lColon => .sym .byteLowNibble (charSym chColon)
  | .lLt => .sym .byteLowNibble (charSym chLt)
  | .lOther ch => .sym .byteLowNibble (charSym ch)
  | .nop => .cmd 0#2
  | .crc => .cmd 1#2
  | .load => .cmd 2#2
  | .dump => .cmd 3#2
  | .sAddr k => .spos (sposCode (posAddr k))
  | .sColon => .spos (sposCode posColon)
  | .sSpace i => .spos (sposCode (posSpace i))
  | .sHi i => .spos (sposCode (posHi i))
  | .sLo i => .spos (sposCode (posLo i))
  | .sEol => .spos (sposCode posEol)
  | .cByte => .cphase 0#2 false
  | .cLen => .cphase 1#2 false
  | .cFin => .cphase 1#2 true

end Sys2Proof
end

