-- ==== Sys2Proof/Config.lean ====
section
/-! DEFINITION. What an implementation fixes and the free values. A free value is a constant with no body: no proof can see what it is,
so a claim about it holds for every value. The values a check against the source could change stand in Machine/Params.lean. -/

namespace Sys2Proof

/-- The two chip variants of R7: the read-only variant (2048 bytes) and the read/write variant (8192 bytes). -/
inductive Variant where
  | readOnly
  | readWrite
  deriving DecidableEq, Repr

/-- FREE VALUE (log 6). The byte that image index `i` holds while nothing has written it: any value per byte, the same at every read
(R21, R232, U7). -/
opaque Config.imgReset : Nat → Byte

/-- FREE VALUE (log 7). `ARG_A` after reset, unspecified (R20, U9). -/
opaque Config.resetArgA : Word

/-- FREE VALUE (log 7). `ARG_B` after reset, unspecified (R20, U9). -/
opaque Config.resetArgB : Word

/-- FREE VALUE (log 7). `pcount` after reset, unspecified until a LOAD starts (R20, U9). -/
opaque Config.resetPcount : Word

/-- FREE VALUE (log 7). `pstart` after reset, unspecified until a LOAD starts (R20, U9). -/
opaque Config.resetPstart : Word

/-- FREE VALUE (log 7). `pend` after reset, unspecified until a LOAD starts (R20, U9). -/
opaque Config.resetPend : Word

/-- FREE VALUE (log 7). `perrch` after reset, unspecified until a syntax error (R20, U9). -/
opaque Config.resetPerrch : Byte

/-- FREE VALUE (log 7). `sstart` after reset, unspecified until a DUMP starts (R20, U9). -/
opaque Config.resetSstart : Word

/-- FREE VALUE (log 7). `send` after reset, unspecified until a DUMP starts (R20, U9). -/
opaque Config.resetSend : Word

/-- FREE VALUE (log 7). `sline` after reset, unspecified until a DUMP starts (R20, U9). -/
opaque Config.resetSline : Word

/-- FREE VALUE (log 7). `sbyte` after reset, unspecified (R20, U9). -/
opaque Config.resetSbyte : Byte

/-- FREE VALUE (log 7). `clen` after reset, unspecified until a CRC starts (R20, U9). -/
opaque Config.resetClen : Word

/-- FREE VALUE (log 7). `CRC_OUT` after reset, unspecified until a CRC command completes (R20, U9). -/
opaque Config.resetCrcOut : Word

end Sys2Proof
end

