-- ==== Sys2Proof/Machine/Params.lean ====
section
/-! DEFINITION. The variant and the CRC parameters of PRX (R7, R8, D22). With Machine/Literals.lean these are the configuration
values of R6: a check against the source's code changes one there or here. -/

namespace Sys2Proof

/-- `CAPACITY`, the size of the image in bytes (R7). -/
def Config.capacity : Variant → Nat
  | .readOnly => Config.readOnlyBytes
  | .readWrite => Config.readWriteBytes

/-- DESIGN CHOICE (log 5). The variant of the machine `State.reset` describes; `State.resetOf` is the reset of either, and every statement
holds for both. -/
def Config.variant : Variant := .readOnly

/-- `CRC_POLY` (R8); the value is from general knowledge, as the spec marks it (G1, log 11). -/
def Config.crcPoly : Word := 0x04C11DB7#_

/-- `CRC_INIT` (R8, C1). -/
def Config.crcInit : Word := 0x00000000#_

/-- `CRC_XOROUT` (R8, C1). -/
def Config.crcXorOut : Word := 0x00000000#_

/-- `CRC_REFIN` (R8): input bytes are taken most significant bit first. -/
def Config.crcRefIn : Bool := false

/-- `CRC_REFOUT` (R8): the result is not bit-reversed. -/
def Config.crcRefOut : Bool := false

end Sys2Proof
end

