-- ==== Sys2Proof/Machine/State.lean ====
section
/-! DEFINITION. The state of PRX, the reasons a step can stop, and the state after reset (10_state.md R20 to R35). The registers are R20's
list; the last six fields are the model's own: the configuration and the other agents (R12, R20). -/

namespace Sys2Proof.Machine

/-- Which command is running (R22). -/
inductive RunUnit where
  | idle
  | crc
  | load
  | dump
  deriving DecidableEq, Repr

/-- How the last LOAD ended (R31). The codes 6 and 7 are unrepresentable (R83). -/
inductive PStatus where
  | stNone
  | stOk
  | stSyntax
  | stRange
  | stTrunc
  | stUnknown
  deriving DecidableEq, Repr

/-- The CRC unit's phase (R33). The code 3 is unrepresentable (R83). -/
inductive CPhase where
  | cData
  | cLen
  | cDone
  deriving DecidableEq, Repr

/-- The four load errors with what each records (R200). -/
inductive LoadError where
  | syntaxError (ch : Byte)
  | range
  | trunc
  | unknown
  deriving DecidableEq, Repr

/-- One write by the host (R35): to `ARG_A`, to `ARG_B`, or of a command code to `CMD`. -/
inductive HostWrite where
  | argA (v : Word)
  | argB (v : Word)
  | cmd (code : BitVec 2)
  deriving DecidableEq, Repr

/-- The image: the bytes written so far, as (index, byte) pairs. An index that is not listed holds the free value `Config.imgReset index`
(R21, log 6). -/
abbrev Memory := List Host.Cell

/-- The state of PRX (R20). -/
structure State where
  /-- `IMG` (R21). -/
  img : Memory
  /-- `unit` (R22). -/
  unit : RunUnit
  /-- `ARG_A` (R35). -/
  argA : Word
  /-- `ARG_B` (R35). -/
  argB : Word
  /-- `pstate` (R24). -/
  pstate : PState
  /-- `paddr` (R25). -/
  paddr : Word
  /-- `pbyte` (R26). -/
  pbyte : Byte
  /-- `pcount` (R27). -/
  pcount : Word
  /-- `pseen` (R28). -/
  pseen : Bool
  /-- `pstart` (R29). -/
  pstart : Word
  /-- `pend` (R29). -/
  pend : Word
  /-- `pstatus` (R31). -/
  pstatus : PStatus
  /-- `perrch` (R30). -/
  perrch : Byte
  /-- `sstart` (R32). -/
  sstart : Word
  /-- `send` (R32). -/
  send : Word
  /-- `sline` (R32). -/
  sline : Word
  /-- `spos`, 0 to 55 (R32, R83). -/
  spos : LinePos
  /-- `sbyte` (R32). -/
  sbyte : Byte
  /-- `crc` (R33). -/
  crc : Word
  /-- `cidx` (R33). -/
  cidx : Word
  /-- `crem` (R33). -/
  crem : Word
  /-- `clen` (R33). -/
  clen : Word
  /-- `cphase` (R33). -/
  cphase : CPhase
  /-- `CRC_OUT` (R33). -/
  crcOut : Word
  /-- MODEL'S OWN (log 5): the build-time variant, which fixes `CAPACITY` (R7); no step changes it. -/
  variant : Variant
  /-- MODEL'S OWN (log 2): the writes the host still makes, in order (R12, R35). -/
  host : List HostWrite
  /-- MODEL'S OWN (log 3): the symbols the source still delivers, in order (R50, R62). -/
  input : List Sym
  /-- MODEL'S OWN (log 3): an exhausted source delivers the sentinel for ever (R158) or nothing (R240). -/
  inputEnded : Bool
  /-- MODEL'S OWN (log 4): the characters the sink has taken, oldest first (R50, R63). -/
  output : List Byte
  /-- MODEL'S OWN (log 4): how many more characters the sink takes; `none` is no limit (R107, R240). -/
  sinkRoom : Option Nat
  deriving DecidableEq, Repr

/-- The machine stops with a fault. The spec treats no behaviour of PRX as a fault. -/
inductive Fault where
  /-- Raised by `memRead` and `memWrite` for an image index outside `[0, CAPACITY)`: such addresses "are invalid and must never be written"
  (R21, R53). Safe; no step from a state that meets `Safety.Inv` raises it (log 10). -/
  | imageIndex (index : Nat)
  deriving DecidableEq, Repr

/-- The model gives no meaning. -/
inductive Refusal where
  /-- Raised by an arm of `exec` that has no meaning yet. Safe; no arm raises it. -/
  | notModelled (mnemonic : String)
  /-- Raised by the four commands while `unit` is not 0: "A model must not define an effect for it" (R101). Safe (log 8). -/
  | busy
  /-- Raised by `CRC` when `ARG_A > CAPACITY` (R108, R111). Safe (log 8). -/
  | invalidCrc
  /-- Raised by `LOAD` when its window is invalid (R108, R109). Safe (log 8). -/
  | invalidLoad
  /-- Raised by `DUMP` when its window is invalid (R108, R110). Safe (log 8). -/
  | invalidDump
  /-- Raised by a unit step whose selector does not hold: it is not among "the only enabled steps" (R107). Safe; `step` never runs one
  (log 9). -/
  | notEnabled
  /-- Raised by `step` when the selectors name no row of the table (R83). Safe; `Safety.Inv` rules it out (log 17). -/
  | undecodable (why : Reject)
  deriving DecidableEq, Repr

/-- What a meaning answers. -/
abbrev Result := Host.Outcome State Fault Refusal

/-- The machine of variant `v` right after reset, as R20's table and R230 say; R7 gives both variants. A register they leave unspecified holds
its free value of `Config` (log 7). -/
def State.resetOf (v : Variant) : State where
  img := []
  unit := .idle
  argA := Config.resetArgA
  argB := Config.resetArgB
  pstate := .address
  paddr := 0#_
  pbyte := 0#_
  pcount := Config.resetPcount
  pseen := false
  pstart := Config.resetPstart
  pend := Config.resetPend
  pstatus := .stNone
  perrch := Config.resetPerrch
  sstart := Config.resetSstart
  send := Config.resetSend
  sline := Config.resetSline
  spos := 0
  sbyte := Config.resetSbyte
  crc := 0#_
  cidx := 0#_
  crem := 0#_
  clen := Config.resetClen
  cphase := .cDone
  crcOut := Config.resetCrcOut
  variant := v
  host := []
  input := []
  inputEnded := false
  output := []
  sinkRoom := none

/-- The machine right after reset, of the variant `Config.variant` names (log 5). -/
def State.reset : State := State.resetOf Config.variant

end Sys2Proof.Machine
end

