-- ==== Sys2Proof/Machine/Memory.lean ====
section
/-! DEFINITION. The image as a list of (index, byte) pairs in one canonical form: indices strictly rising (log 6). What an index that is not
listed reads as is `none`: nothing has written it. No entry can equal that, so equal memories are equal lists. -/

namespace Sys2Proof.Machine

/-- The canonical form: indices strictly rising. -/
abbrev Memory.wf (m : Memory) : Prop := m.Pairwise (fun a b => a.1 < b.1)

/-- The byte written at index `i`, or `none` where nothing has written it. -/
def Memory.read : Memory → Nat → Option Byte
  | [], _ => none
  | (k, v) :: rest, i => if k = i then some v else Memory.read rest i

/-- Writing byte `b` at index `i`, in its place in the order. -/
def Memory.write : Memory → Nat → Byte → Memory
  | [], i, b => [(i, b)]
  | (k, v) :: rest, i, b =>
    if i < k then (i, b) :: (k, v) :: rest
    else if i = k then (i, b) :: rest
    else (k, v) :: Memory.write rest i b

end Sys2Proof.Machine
end

