-- ==== Sys2Proof/Machine/Ops.lean ====
section
/-! DEFINITION. The named operations over the image, the streams and the registers, with the one operation that raises a load error
(00_scope.md R14, R15; 20_memory.md; 60_exceptions.md R207). PRX has no return from an error (R210): the next LOAD starts afresh. -/

namespace Sys2Proof.Machine

/-! ## The image -/

/-- `CAPACITY` of this machine (R7). -/
def State.capacity (s : State) : Nat := Config.capacity s.variant

/-- The byte of the image at index `i`: the one written there, else its free value (R21, R232, U7, log 6). -/
def State.imgByte (s : State) (i : Nat) : Byte := (s.img.read i).getD (Config.imgReset i)

/-- `MemRead(i, 1)` (R14, R51); an index outside the image faults (R21). -/
def memRead (i : Nat) (s : State) : Except Fault Byte :=
  if i < s.capacity then .ok (s.imgByte i) else .error (.imageIndex i)

/-- `MemWrite(i, 1, b)` (R14, R51); an index outside the image faults (R21). -/
def memWrite (i : Nat) (b : Byte) (s : State) : Except Fault State :=
  if i < s.capacity then .ok { s with img := s.img.write i b } else .error (.imageIndex i)

/-! ## The streams -/

/-- `SymGet()` (R15): the next symbol and the state after consuming it, or `none` while the source has none. A source that has ended
delivers the sentinel for ever (R158). -/
def symGet (s : State) : Option (Sym × State) :=
  match s.input with
  | c :: rest => some (c, { s with input := rest })
  | [] => if s.inputEnded then some (eofSym 0#_, s) else none

/-- The sink can take a character (R107). -/
def State.sinkReady (s : State) : Bool := s.sinkRoom != some 0

/-- `CharPut(c)` (R15), for a sink that can take `c`: appended to what it has taken (R56). -/
def charPut (c : Byte) (s : State) : State :=
  { s with output := s.output ++ [c], sinkRoom := s.sinkRoom.map (fun n => n - 1) }

/-! ## Ending a command -/

/-- `finish(u)` (R106): `unit <- 0` and no other change. -/
def finish (s : State) : State := { s with unit := .idle }

/-- `raise LoadError(cause, info)` (R207): the recorded value, `pstatus`, and `finish(LOAD)`, in the step that consumed the symbol. -/
def raiseLoadError (e : LoadError) (s : State) : State :=
  match e with
  | .syntaxError ch => finish { s with perrch := ch, pstatus := .stSyntax }
  | .range => finish { s with pstatus := .stRange }
  | .trunc => finish { s with pstatus := .stTrunc }
  | .unknown => finish { s with pstatus := .stUnknown }

/-! ## Which unit steps (R107) -/

/-- A command is accepted only when `unit = 0` (R101). -/
def whenIdle (k : State → Result) (s : State) : Result :=
  if s.unit = .idle then k s else .refused .busy

/-- A parser step in any parser state: enabled while `unit = 2` (R141). -/
def whenLoading (k : State → Result) (s : State) : Result :=
  if s.unit = .load then k s else .refused .notEnabled

/-- A parser step of state `p` (R141). -/
def whenParser (p : PState) (k : State → Result) (s : State) : Result :=
  if s.unit = .load ∧ s.pstate = p then k s else .refused .notEnabled

/-- The serializer step of position `pos`: enabled while `unit = 3` and `spos = pos`; while the sink takes no character it waits (R107,
R240). -/
def whenSerializer (pos : LinePos) (k : State → Result) (s : State) : Result :=
  if s.unit = .dump ∧ s.spos = pos then (if s.sinkReady then k s else .next s) else .refused .notEnabled

/-- A CRC unit step of phase `ph`: enabled while `unit = 1` (R107). -/
def whenCrc (ph : CPhase) (k : State → Result) (s : State) : Result :=
  if s.unit = .crc ∧ s.cphase = ph then k s else .refused .notEnabled

/-! ## What the host reads (R35) -/

/-- The code of `unit` (R22). -/
def RunUnit.code : RunUnit → BitVec 2
  | .idle => 0#2
  | .crc => 1#2
  | .load => 2#2
  | .dump => 3#2

/-- The code of `pstate` (R24). -/
def pstateCode : PState → BitVec 2
  | .address => 0#2
  | .byteHighNibble => 1#2
  | .byteLowNibble => 2#2

/-- The code of `pstatus` (R31). -/
def PStatus.code : PStatus → BitVec 3
  | .stNone => 0#3
  | .stOk => 1#3
  | .stSyntax => 2#3
  | .stRange => 3#3
  | .stTrunc => 4#3
  | .stUnknown => 5#3

/-- The code of `cphase` (R33). -/
def CPhase.code : CPhase → BitVec 2
  | .cData => 0#2
  | .cLen => 1#2
  | .cDone => 2#2

/-- `BUSY` (R35). -/
def State.busy (s : State) : BitVec 1 := if s.unit = .idle then 0#1 else 1#1

/-- `UNIT` (R35). -/
def State.unitReg (s : State) : BitVec 2 := s.unit.code

/-- `LD_COUNT` (R35). -/
def State.ldCount (s : State) : Word := s.pcount

/-- `LD_STATUS` (R35). -/
def State.ldStatus (s : State) : BitVec 3 := s.pstatus.code

/-- `LD_ERRCH` (R35). -/
def State.ldErrch (s : State) : Byte := s.perrch

/-- `LD_ADDR` (R35). -/
def State.ldAddr (s : State) : Word := s.paddr

/-- The registers the host reads (R35). -/
inductive ResultReg where
  | busy
  | unit
  | crcOut
  | ldCount
  | ldStatus
  | ldErrch
  | ldAddr
  deriving DecidableEq, Repr

/-- A read by the host, widened with zeros to 32 bits; it changes no state (R35). -/
def hostRead (r : ResultReg) (s : State) : Word :=
  match r with
  | .busy => s.busy.zeroExtend _
  | .unit => s.unitReg.zeroExtend _
  | .crcOut => s.crcOut
  | .ldCount => s.ldCount
  | .ldStatus => s.ldStatus.zeroExtend _
  | .ldErrch => s.ldErrch.zeroExtend _
  | .ldAddr => s.ldAddr

end Sys2Proof.Machine
end

