-- ==== Sys2Proof/Machine/Operands.lean ====
section
/-! DEFINITION. The operand forms: hex digits, addresses and bytes assembled from digits, output characters, and the image index of an
address under a window (30_encoding.md R76 to R79; 20_memory.md R52). -/

namespace Sys2Proof.Machine

/-- `hexval(ch)` (R76): fold to upper case, then subtract. -/
def hexval (ch : Byte) : Nibble :=
  let u := if 0x61#_ ≤ ch ∧ ch ≤ 0x66#_ then ch - 0x20#_ else ch
  if 0x30#_ ≤ u ∧ u ≤ 0x39#_ then (u - 0x30#_).setWidth _ else (u - 0x41#_ + 10#_).setWidth _

/-- An address digit shifts the accumulator left 4 bits, modulo 2^32 (R77, R143). -/
def shiftInDigit (addr : Word) (d : Nibble) : Word := (addr <<< Config.digitBits) ||| d.zeroExtend _

/-- The first digit of a byte: `digit << 4`, the low nibble 0 (R149). -/
def highNibble (d : Nibble) : Byte := d.zeroExtend _ <<< Config.digitBits

/-- The second digit of a byte: `value |= digit` (R153). -/
def withLowNibble (b : Byte) (d : Nibble) : Byte := b ||| d.zeroExtend _

/-- The image index of address `a` under a window that starts at `start` (R52). -/
def windowIndex (a start : Word) : Nat := (a - start).toNat

/-- `hexchar(n)` (R78): lowercase. -/
def hexchar (n : Nibble) : Byte :=
  if n ≤ 9#_ then 0x30#_ + n.zeroExtend _ else 0x57#_ + n.zeroExtend _

/-- Address digit `k` of a line, most significant first: `(a >> (4 * (5 - k)))[3:0]` (R122, R126). -/
def addrDigit (a : Word) (k : Nat) : Nibble := (a >>> (Config.digitBits * (Config.addrDigits - 1 - k))).setWidth _

/-- The high nibble of a byte (R123, R129). -/
def hiNibble (b : Byte) : Nibble := b.extractLsb' Config.digitBits _

/-- The low nibble of a byte (R123, R130). -/
def loNibble (b : Byte) : Nibble := b.extractLsb' 0 _

end Sys2Proof.Machine
end

