-- ==== Sys2Proof/Machine/Flags.lean ====
section
/-! DEFINITION. The flag `pseen` (10_state.md R28) and the conditions the steps test: the range test of L.HEX (42_parser.md R153), the end of
a dump (41_serializer.md R131) and the validity of a command's operands (40_commands.md R109 to R111). -/

namespace Sys2Proof.Machine

/-- An address digit sets the digits-seen flag (R28, R143); nothing else does. -/
def setSeen (s : State) : State := { s with pseen := true }

/-- A LOAD starts with the digits-seen flag clear (R28, R140). -/
def clearSeen (s : State) : State := { s with pseen := false }

/-- `pstart <= paddr and paddr < pend`, unsigned (R153, D10). -/
abbrev State.inWindow (s : State) : Prop := s.pstart ≤ s.paddr ∧ s.paddr < s.pend

/-- `sline + 16 >= send`: the line being emitted is the last (R131). -/
abbrev State.lastLine (s : State) : Prop := s.send ≤ s.sline + BitVec.ofNat _ Config.lineBytes

/-- `CRC` is valid when `len <= CAPACITY` (R111). -/
abbrev crcValid (cap : Nat) (len : Word) : Prop := len.toNat ≤ cap

/-- `LOAD` is valid when `start <= end` and the window fits the image (R109). -/
abbrev loadValid (cap : Nat) (start stop : Word) : Prop :=
  start.toNat ≤ stop.toNat ∧ stop.toNat - start.toNat ≤ cap

/-- `DUMP` is valid when in addition both ends are multiples of 16 and every line address fits 6 hex digits (R110). -/
abbrev dumpValid (cap : Nat) (start stop : Word) : Prop :=
  start.toNat ≤ stop.toNat ∧ stop.toNat - start.toNat ≤ cap ∧ start.toNat % Config.lineBytes = 0 ∧
    stop.toNat % Config.lineBytes = 0 ∧ stop.toNat ≤ Config.addrLimit

end Sys2Proof.Machine
end

