-- ==== Sys2Proof/Machine/Commands.lean ====
section
/-! DEFINITION. The four host commands: acceptance, the start of the unit, and refusal of invalid operands (40_commands.md). -/

namespace Sys2Proof.Machine

/-- The start of a CRC command of length `len` (R103, R184). -/
def startCrc (len : Word) (s : State) : State :=
  { s with unit := .crc, clen := len, crc := Config.crcInit, cidx := 0#_, crem := len,
           cphase := if len = 0#_ then .cLen else .cData }

/-- The start of a LOAD with window `[start, stop)` (R104, R140). -/
def startLoad (start stop : Word) (s : State) : State :=
  clearSeen { s with unit := .load, pstart := start, pend := stop, pstate := .address, paddr := 0#_, pbyte := 0#_, pcount := 0#_,
                     pstatus := .stNone }

/-- The start of a DUMP with window `[start, stop)` (R105, R125); an empty window ends at once. -/
def startDump (start stop : Word) (s : State) : State :=
  let s' := { s with unit := .dump, sstart := start, send := stop, sline := start, spos := 0 }
  if stop ≤ start then finish s' else s'

/-- `NOP` (R102). -/
def execNop (s : State) : Result := whenIdle (fun s => .next s) s

/-- `CRC` (R103). -/
def execCrc (s : State) : Result :=
  whenIdle (fun s => if crcValid s.capacity s.argA then .next (startCrc s.argA s) else .refused .invalidCrc) s

/-- `LOAD` (R104). -/
def execLoad (s : State) : Result :=
  whenIdle (fun s => if loadValid s.capacity s.argA s.argB then .next (startLoad s.argA s.argB s) else .refused .invalidLoad) s

/-- `DUMP` (R105). -/
def execDump (s : State) : Result :=
  whenIdle (fun s => if dumpValid s.capacity s.argA s.argB then .next (startDump s.argA s.argB s) else .refused .invalidDump) s

end Sys2Proof.Machine
end

