-- ==== Sys2Proof/Machine/CrcFunction.lean ====
section
/-! DEFINITION. The CRC as a function: one byte into the register, the length bytes, and the result over a byte sequence (43_crc.md R180 to
R183). The polynomial and the bit-serial update are general knowledge, as the spec marks them (G1, G2, log 11). -/

namespace Sys2Proof.Machine

/-- One shift of R181's loop. -/
def crcShift (c : Word) : Word :=
  if c.msb then (c <<< 1) ^^^ Config.crcPoly else c <<< 1

/-- `n` shifts. -/
def crcShifts : Nat → Word → Word
  | 0, c => c
  | n + 1, c => crcShifts n (crcShift c)

/-- An input byte in the order the CRC takes it (R8, `CRC_REFIN`). -/
def crcInByte (b : Byte) : Byte := if Config.crcRefIn then b.reverse else b

/-- `crc_byte(c, b)` (R181). -/
def crcByte (c : Word) (b : Byte) : Word :=
  crcShifts Config.byteBits (c ^^^ ((crcInByte b).zeroExtend _ <<< (Config.wordBits - Config.byteBits)))

/-- A sequence of bytes into the register, the first first (R183). -/
def crcBytes (c : Word) (bs : List Byte) : Word := bs.foldl crcByte c

/-- The bytes of a length, lowest first, at most `fuel` of them. -/
def lenBytesUpTo : Nat → Word → List Byte
  | 0, _ => []
  | fuel + 1, n => if n = 0#_ then [] else n.setWidth _ :: lenBytesUpTo fuel (n >>> Config.byteBits)

/-- `lenbytes(n)` (R182): none for 0, and 4 at most, since n has 32 bits. -/
def lenBytes (n : Word) : List Byte := lenBytesUpTo (Config.wordBits / Config.byteBits) n

/-- The register as the result: `c ^ CRC_XOROUT` (R183), bit-reversed first if `CRC_REFOUT` (R8). -/
def crcResult (c : Word) : Word := (if Config.crcRefOut then c.reverse else c) ^^^ Config.crcXorOut

/-- `crc32_len(D)` for a sequence D whose length is below 2^32 (R183). -/
def crc32Len (d : List Byte) : Word :=
  crcResult (crcBytes (crcBytes Config.crcInit d) (lenBytes (BitVec.ofNat _ d.length)))

end Sys2Proof.Machine
end

