-- ==== Sys2Proof/Machine/CrcUnit.lean ====
section
/-! DEFINITION. The CRC unit: one byte per step (43_crc.md R185 to R187). -/

namespace Sys2Proof.Machine

/-- Absorb the data byte at `cidx`; after the last one the length follows (R185). -/
def absorbStep (s : State) : Result :=
  match memRead s.cidx.toNat s with
  | .error f => .fault f
  | .ok b =>
    .next { s with crc := crcByte s.crc b, cidx := s.cidx + 1#_, cphase := if s.cidx + 1#_ = s.clen then .cLen else s.cphase }

/-- Fold in the lowest byte of the remaining length (R186). -/
def foldLenStep (s : State) : Result :=
  .next { s with crc := crcByte s.crc (s.crem.setWidth _), crem := s.crem >>> Config.byteBits }

/-- Deliver the result and end the command (R187). -/
def deliverStep (s : State) : Result :=
  .next (finish { s with crcOut := crcResult s.crc, cphase := .cDone })

/-- `C.BYTE` (R185). -/
def execCByte (s : State) : Result := whenCrc .cData absorbStep s

/-- `C.LEN` (R186): its selector asks that `crem` is not 0. -/
def execCLen (s : State) : Result :=
  whenCrc .cLen (fun s => if s.crem = 0#_ then .refused .notEnabled else foldLenStep s) s

/-- `C.FIN` (R187): its selector asks that `crem` is 0. -/
def execCFin (s : State) : Result :=
  whenCrc .cLen (fun s => if s.crem = 0#_ then deliverStep s else .refused .notEnabled) s

end Sys2Proof.Machine
end

