-- ==== Sys2Proof/Machine/Parser.lean ====
section
/-! DEFINITION. The hex load parser: one shared operation per rule of 42_parser.md and one meaning per row of the table. The symbol has been
consumed before the meaning runs (R141: first `SymGet()`, then the rule). State a rule does not name is unchanged. -/

namespace Sys2Proof.Machine

/-! ## The rules -/

/-- `A.HEX` with digit `d` (R143). -/
def aHexStep (d : Nibble) (s : State) : Result :=
  .next (setSeen { s with paddr := shiftInDigit s.paddr d })

/-- A step at which nothing changes: a space in any state (R144, R150, R154). -/
def skipStep (s : State) : Result := .next s

/-- `A.COLON` (R145). -/
def aColonStep (s : State) : Result := .next { s with pstate := .byteHighNibble }

/-- `A.LT` (R146): skipped before the first address digit, else the normal end. -/
def aLtStep (s : State) : Result :=
  if s.pseen then .next (finish { s with pstatus := .stOk }) else .next s

/-- A load error ends the load in a next state (R207). -/
def errorStep (e : LoadError) (s : State) : Result := .next (raiseLoadError e s)

/-- `H.HEX` with digit `d` (R149). -/
def hHexStep (d : Nibble) (s : State) : Result :=
  .next { s with pbyte := highNibble d, pstate := .byteLowNibble }

/-- `H.LT` (R151): the running address is forgotten. -/
def hLtStep (s : State) : Result := .next { s with paddr := 0#_, pstate := .address }

/-- `L.HEX` with digit `d` (R153): the byte is completed first; then it is stored, or the range error is raised. -/
def lHexStep (d : Nibble) (s : State) : Result :=
  let b := withLowNibble s.pbyte d
  if s.inWindow then
    match memWrite (windowIndex s.paddr s.pstart) b { s with pbyte := b } with
    | .error f => .fault f
    | .ok s' => .next { s' with paddr := s'.paddr + 1#_, pcount := s'.pcount + 1#_, pstate := .byteHighNibble }
  else errorStep .range { s with pbyte := b }

/-! ## The meanings -/

/-- `P.EOF` (R142): the same in every parser state; `ch` is ignored. -/
def execPEof (_ch : BitVec 8) (s : State) : Result := whenLoading (errorStep .unknown) s

/-- `A_HEX_0_7` (R143). -/
def execAHex07 (lo : BitVec 3) (s : State) : Result := whenParser .address (aHexStep (hexval (ch07 lo))) s

/-- `A_HEX_8_9` (R143). -/
def execAHex89 (lo : BitVec 1) (s : State) : Result := whenParser .address (aHexStep (hexval (ch89 lo))) s

/-- `A_HEX_UA` (R143). -/
def execAHexUA (s : State) : Result := whenParser .address (aHexStep (hexval chUA)) s

/-- `A_HEX_UB_UC` (R143). -/
def execAHexUBUC (lo : BitVec 1) (s : State) : Result := whenParser .address (aHexStep (hexval (chUBUC lo))) s

/-- `A_HEX_UD_UE` (R143). -/
def execAHexUDUE (lo : BitVec 1) (s : State) : Result := whenParser .address (aHexStep (hexval (chUDUE lo))) s

/-- `A_HEX_UF` (R143). -/
def execAHexUF (s : State) : Result := whenParser .address (aHexStep (hexval chUF)) s

/-- `A_HEX_LA` (R143). -/
def execAHexLA (s : State) : Result := whenParser .address (aHexStep (hexval chLA)) s

/-- `A_HEX_LB_LC` (R143). -/
def execAHexLBLC (lo : BitVec 1) (s : State) : Result := whenParser .address (aHexStep (hexval (chLBLC lo))) s

/-- `A_HEX_LD_LE` (R143). -/
def execAHexLDLE (lo : BitVec 1) (s : State) : Result := whenParser .address (aHexStep (hexval (chLDLE lo))) s

/-- `A_HEX_LF` (R143). -/
def execAHexLF (s : State) : Result := whenParser .address (aHexStep (hexval chLF)) s

/-- `A_SP` (R144). -/
def execASp (s : State) : Result := whenParser .address skipStep s

/-- `A_COLON` (R145). -/
def execAColon (s : State) : Result := whenParser .address aColonStep s

/-- `A_LT` (R146). -/
def execALt (s : State) : Result := whenParser .address aLtStep s

/-- `A_OTHER` (R147). -/
def execAOther (ch : BitVec 8) (s : State) : Result := whenParser .address (errorStep (.syntaxError ch)) s

/-- `H_HEX_0_7` (R149). -/
def execHHex07 (lo : BitVec 3) (s : State) : Result := whenParser .byteHighNibble (hHexStep (hexval (ch07 lo))) s

/-- `H_HEX_8_9` (R149). -/
def execHHex89 (lo : BitVec 1) (s : State) : Result := whenParser .byteHighNibble (hHexStep (hexval (ch89 lo))) s

/-- `H_HEX_UA` (R149). -/
def execHHexUA (s : State) : Result := whenParser .byteHighNibble (hHexStep (hexval chUA)) s

/-- `H_HEX_UB_UC` (R149). -/
def execHHexUBUC (lo : BitVec 1) (s : State) : Result := whenParser .byteHighNibble (hHexStep (hexval (chUBUC lo))) s

/-- `H_HEX_UD_UE` (R149). -/
def execHHexUDUE (lo : BitVec 1) (s : State) : Result := whenParser .byteHighNibble (hHexStep (hexval (chUDUE lo))) s

/-- `H_HEX_UF` (R149). -/
def execHHexUF (s : State) : Result := whenParser .byteHighNibble (hHexStep (hexval chUF)) s

/-- `H_HEX_LA` (R149). -/
def execHHexLA (s : State) : Result := whenParser .byteHighNibble (hHexStep (hexval chLA)) s

/-- `H_HEX_LB_LC` (R149). -/
def execHHexLBLC (lo : BitVec 1) (s : State) : Result := whenParser .byteHighNibble (hHexStep (hexval (chLBLC lo))) s

/-- `H_HEX_LD_LE` (R149). -/
def execHHexLDLE (lo : BitVec 1) (s : State) : Result := whenParser .byteHighNibble (hHexStep (hexval (chLDLE lo))) s

/-- `H_HEX_LF` (R149). -/
def execHHexLF (s : State) : Result := whenParser .byteHighNibble (hHexStep (hexval chLF)) s

/-- `H_SP` (R150). -/
def execHSp (s : State) : Result := whenParser .byteHighNibble skipStep s

/-- `H_COLON` (R152: a colon in a byte state is an illegal character). -/
def execHColon (s : State) : Result := whenParser .byteHighNibble (errorStep (.syntaxError chColon)) s

/-- `H_LT` (R151). -/
def execHLt (s : State) : Result := whenParser .byteHighNibble hLtStep s

/-- `H_OTHER` (R152). -/
def execHOther (ch : BitVec 8) (s : State) : Result := whenParser .byteHighNibble (errorStep (.syntaxError ch)) s

/-- `L_HEX_0_7` (R153). -/
def execLHex07 (lo : BitVec 3) (s : State) : Result := whenParser .byteLowNibble (lHexStep (hexval (ch07 lo))) s

/-- `L_HEX_8_9` (R153). -/
def execLHex89 (lo : BitVec 1) (s : State) : Result := whenParser .byteLowNibble (lHexStep (hexval (ch89 lo))) s

/-- `L_HEX_UA` (R153). -/
def execLHexUA (s : State) : Result := whenParser .byteLowNibble (lHexStep (hexval chUA)) s

/-- `L_HEX_UB_UC` (R153). -/
def execLHexUBUC (lo : BitVec 1) (s : State) : Result := whenParser .byteLowNibble (lHexStep (hexval (chUBUC lo))) s

/-- `L_HEX_UD_UE` (R153). -/
def execLHexUDUE (lo : BitVec 1) (s : State) : Result := whenParser .byteLowNibble (lHexStep (hexval (chUDUE lo))) s

/-- `L_HEX_UF` (R153). -/
def execLHexUF (s : State) : Result := whenParser .byteLowNibble (lHexStep (hexval chUF)) s

/-- `L_HEX_LA` (R153). -/
def execLHexLA (s : State) : Result := whenParser .byteLowNibble (lHexStep (hexval chLA)) s

/-- `L_HEX_LB_LC` (R153). -/
def execLHexLBLC (lo : BitVec 1) (s : State) : Result := whenParser .byteLowNibble (lHexStep (hexval (chLBLC lo))) s

/-- `L_HEX_LD_LE` (R153). -/
def execLHexLDLE (lo : BitVec 1) (s : State) : Result := whenParser .byteLowNibble (lHexStep (hexval (chLDLE lo))) s

/-- `L_HEX_LF` (R153). -/
def execLHexLF (s : State) : Result := whenParser .byteLowNibble (lHexStep (hexval chLF)) s

/-- `L_SP` (R154). -/
def execLSp (s : State) : Result := whenParser .byteLowNibble skipStep s

/-- `L_COLON` (R156: a colon in a byte state is an illegal character). -/
def execLColon (s : State) : Result := whenParser .byteLowNibble (errorStep (.syntaxError chColon)) s

/-- `L_LT` (R155: the half-built byte is dropped). -/
def execLLt (s : State) : Result := whenParser .byteLowNibble (errorStep .trunc) s

/-- `L_OTHER` (R156). -/
def execLOther (ch : BitVec 8) (s : State) : Result := whenParser .byteLowNibble (errorStep (.syntaxError ch)) s

end Sys2Proof.Machine
end

