-- ==== Sys2Proof/Machine/Serializer.lean ====
section
/-! DEFINITION. The hex dump serializer: one character per step (41_serializer.md R126 to R131). -/

namespace Sys2Proof.Machine

/-- Emit `c` and go on to position `next`. -/
def emitStep (c : Byte) (next : LinePos) (s : State) : Result := .next { charPut c s with spos := next }

/-- Emit a space and latch byte `i` of the line: `sbyte <- Src(sline + i)` with `Src(a) = MemRead(a - sstart, 1)` (R124, R128). -/
def latchStep (i : ByteIdx) (s : State) : Result :=
  match memRead (windowIndex (s.sline + BitVec.ofNat _ i.val) s.sstart) s with
  | .error f => .fault f
  | .ok b => .next { charPut chSp s with sbyte := b, spos := posHi i }

/-- Emit the line feed; the last line ends the DUMP, else the next line starts (R131). -/
def endLineStep (s : State) : Result :=
  if s.lastLine then .next (finish (charPut chLt s))
  else .next { charPut chLt s with sline := s.sline + BitVec.ofNat _ Config.lineBytes, spos := 0 }

/-- The position after address digit `k`. -/
def posAfterAddr (k : AddrIdx) : LinePos := ⟨k.val + 1, addrPos_lt k⟩

/-- The position after the low digit of byte `i`: the next space, or the line feed. -/
def posAfterLo (i : ByteIdx) : LinePos := ⟨Config.firstBytePos + 3 + Config.byteChars * i.val, bytePos_lt i (j := 3) (by decide)⟩

/-- `S.ADDR` (R126). -/
def execSAddr (k : AddrIdx) (s : State) : Result :=
  whenSerializer (posAddr k) (fun s => emitStep (hexchar (addrDigit s.sline k.val)) (posAfterAddr k) s) s

/-- `S.COLON` (R127). -/
def execSColon (s : State) : Result := whenSerializer posColon (emitStep chColon (posSpace 0)) s

/-- `S.SPACE` (R128). -/
def execSSpace (i : ByteIdx) (s : State) : Result := whenSerializer (posSpace i) (latchStep i) s

/-- `S.HI` (R129). -/
def execSHi (i : ByteIdx) (s : State) : Result :=
  whenSerializer (posHi i) (fun s => emitStep (hexchar (hiNibble s.sbyte)) (posLo i) s) s

/-- `S.LO` (R130). -/
def execSLo (i : ByteIdx) (s : State) : Result :=
  whenSerializer (posLo i) (fun s => emitStep (hexchar (loNibble s.sbyte)) (posAfterLo i) s) s

/-- `S.EOL` (R131). -/
def execSEol (s : State) : Result := whenSerializer posEol endLineStep s

end Sys2Proof.Machine
end

