-- ==== Sys2Proof/Machine/Dispatch.lean ====
section
/-! DEFINITION. The meaning of every instruction: one arm per constructor of `Instr`. -/

namespace Sys2Proof.Machine

def exec (i : Instr) (s : State) : Host.Outcome State Fault Refusal :=
  match i with
  | .pEof ch => Sys2Proof.Machine.execPEof ch s
  | .aHex07 lo => Sys2Proof.Machine.execAHex07 lo s
  | .aHex89 lo => Sys2Proof.Machine.execAHex89 lo s
  | .aHexUA => Sys2Proof.Machine.execAHexUA s
  | .aHexUBUC lo => Sys2Proof.Machine.execAHexUBUC lo s
  | .aHexUDUE lo => Sys2Proof.Machine.execAHexUDUE lo s
  | .aHexUF => Sys2Proof.Machine.execAHexUF s
  | .aHexLA => Sys2Proof.Machine.execAHexLA s
  | .aHexLBLC lo => Sys2Proof.Machine.execAHexLBLC lo s
  | .aHexLDLE lo => Sys2Proof.Machine.execAHexLDLE lo s
  | .aHexLF => Sys2Proof.Machine.execAHexLF s
  | .aSp => Sys2Proof.Machine.execASp s
  | .aColon => Sys2Proof.Machine.execAColon s
  | .aLt => Sys2Proof.Machine.execALt s
  | .aOther ch => Sys2Proof.Machine.execAOther ch s
  | .hHex07 lo => Sys2Proof.Machine.execHHex07 lo s
  | .hHex89 lo => Sys2Proof.Machine.execHHex89 lo s
  | .hHexUA => Sys2Proof.Machine.execHHexUA s
  | .hHexUBUC lo => Sys2Proof.Machine.execHHexUBUC lo s
  | .hHexUDUE lo => Sys2Proof.Machine.execHHexUDUE lo s
  | .hHexUF => Sys2Proof.Machine.execHHexUF s
  | .hHexLA => Sys2Proof.Machine.execHHexLA s
  | .hHexLBLC lo => Sys2Proof.Machine.execHHexLBLC lo s
  | .hHexLDLE lo => Sys2Proof.Machine.execHHexLDLE lo s
  | .hHexLF => Sys2Proof.Machine.execHHexLF s
  | .hSp => Sys2Proof.Machine.execHSp s
  | .hColon => Sys2Proof.Machine.execHColon s
  | .hLt => Sys2Proof.Machine.execHLt s
  | .hOther ch => Sys2Proof.Machine.execHOther ch s
  | .lHex07 lo => Sys2Proof.Machine.execLHex07 lo s
  | .lHex89 lo => Sys2Proof.Machine.execLHex89 lo s
  | .lHexUA => Sys2Proof.Machine.execLHexUA s
  | .lHexUBUC lo => Sys2Proof.Machine.execLHexUBUC lo s
  | .lHexUDUE lo => Sys2Proof.Machine.execLHexUDUE lo s
  | .lHexUF => Sys2Proof.Machine.execLHexUF s
  | .lHexLA => Sys2Proof.Machine.execLHexLA s
  | .lHexLBLC lo => Sys2Proof.Machine.execLHexLBLC lo s
  | .lHexLDLE lo => Sys2Proof.Machine.execLHexLDLE lo s
  | .lHexLF => Sys2Proof.Machine.execLHexLF s
  | .lSp => Sys2Proof.Machine.execLSp s
  | .lColon => Sys2Proof.Machine.execLColon s
  | .lLt => Sys2Proof.Machine.execLLt s
  | .lOther ch => Sys2Proof.Machine.execLOther ch s
  | .nop => Sys2Proof.Machine.execNop s
  | .crc => Sys2Proof.Machine.execCrc s
  | .load => Sys2Proof.Machine.execLoad s
  | .dump => Sys2Proof.Machine.execDump s
  | .sAddr k => Sys2Proof.Machine.execSAddr k s
  | .sColon => Sys2Proof.Machine.execSColon s
  | .sSpace k => Sys2Proof.Machine.execSSpace k s
  | .sHi k => Sys2Proof.Machine.execSHi k s
  | .sLo k => Sys2Proof.Machine.execSLo k s
  | .sEol => Sys2Proof.Machine.execSEol s
  | .cByte => Sys2Proof.Machine.execCByte s
  | .cLen => Sys2Proof.Machine.execCLen s
  | .cFin => Sys2Proof.Machine.execCFin s

end Sys2Proof.Machine
end

