-- ==== Sys2Proof/Machine/Fetch.lean ====
section
/-! DEFINITION. Which step is next (40_commands.md R107; 42_parser.md R141), and the placing of a table word where the machine takes its next
step (log 14). PRX has no program counter (R14): `unit` and the selectors say what is next. -/

namespace Sys2Proof.Machine

/-- What the machine finds to do. -/
inductive Fetched where
  /-- Nothing: an idle machine waits for the host, a LOAD for the source (R107, R230, R240). -/
  | waiting
  /-- The host has written an operand register, with this result (R35). -/
  | written (s : State)
  /-- This item selects the step, in this state: the symbol or the command has been consumed (R101, R141). -/
  | item (x : Item) (s : State)
  deriving DecidableEq, Repr

/-- The next write of the host, which is made only between commands (R101, log 2). -/
def fetchHost (s : State) : Fetched :=
  match s.host with
  | [] => .waiting
  | .argA v :: rest => .written { s with argA := v, host := rest }
  | .argB v :: rest => .written { s with argB := v, host := rest }
  | .cmd code :: rest => .item (.cmd code) { s with host := rest }

/-- The next symbol of the source, under the parser's state (R141). -/
def fetchSym (s : State) : Fetched :=
  match symGet s with
  | none => .waiting
  | some (c, s') => .item (.sym s.pstate c) s'

/-- Only the running unit steps (R107). -/
def fetch (s : State) : Fetched :=
  match s.unit with
  | .idle => fetchHost s
  | .load => fetchSym s
  | .dump => .item (.spos (sposCode s.spos)) s
  | .crc => .item (.cphase s.cphase.code (s.crem == 0#_)) s

/-! ## Placing a table word (log 14) -/

/-- The position a selector stands for, 0 for a reserved one. -/
def sposOfCode (pos : BitVec 6) : LinePos := if h : pos.toNat < Config.lineChars then ⟨pos.toNat, h⟩ else 0

/-- The phase a selector stands for. -/
def cphaseOfCode (phase : BitVec 2) : CPhase :=
  if phase = 0#2 then .cData else if phase = 1#2 then .cLen else .cDone

/-- The capacity as a register value. -/
def State.capacityWord (s : State) : Word := BitVec.ofNat _ s.capacity

/-- `s` set so that the very next step runs the step `x` selects: a command is what the idle host writes next, with zero operands; a symbol is
what the source delivers next to a LOAD of the whole image that has just been accepted; a selector is that of a DUMP of the whole image (into a
sink that takes at least one character), or of a CRC of length 1, that has just been accepted. -/
def placeItem (x : Item) (s : State) : State :=
  match x with
  | .cmd code => { s with unit := .idle, argA := 0#_, argB := 0#_, host := .cmd code :: s.host }
  | .sym p c => { startLoad 0#_ s.capacityWord s with pstate := p, input := c :: s.input }
  | .spos pos =>
    { startDump 0#_ s.capacityWord s with spos := sposOfCode pos, sinkRoom := if s.sinkReady then s.sinkRoom else some 1 }
  | .cphase phase remZero =>
    { startCrc 1#_ s with cphase := cphaseOfCode phase, crem := if remZero then 0#_ else 1#_ }

/-- `placeItem` of a table word; a word no item has leaves `s` as it is. -/
def placeTableWord (s : State) (nbits w : Nat) : State :=
  match itemOfTableWord nbits w with
  | none => s
  | some x => placeItem x s

end Sys2Proof.Machine
end

