-- ==== Sys2Proof/Machine/Step.lean ====
section
/-! DEFINITION. One step: fetch, decode, exec. Waiting leaves the state as it is (40_commands.md R107; 70_reset_and_hazards.md R240). -/

namespace Sys2Proof.Machine

/-- One step of the machine. -/
def step (s : State) : Host.Outcome State Fault Refusal :=
  match fetch s with
  | .waiting => .next s
  | .written s' => .next s'
  | .item x s' =>
    match decode x with
    | .ok i => exec i s'
    | .error why => .refused (.undecodable why)

/-- `s` with a table word placed where `step` takes its next instruction (log 14). -/
def State.withFetchWord (s : State) (nbits w : Nat) : State := placeTableWord s nbits w

end Sys2Proof.Machine
end

