-- ==== Sys2Proof/Machine/DumpText.lean ====
section
/-! DEFINITION. The text a DUMP emits, as the document fixes it, independent of the serializer's steps (41_serializer.md R120 to R124;
30_encoding.md R79). -/

namespace Sys2Proof.Machine

/-- `hex6(a)`: six characters, most significant digit first (R122). -/
def hex6 (a : Word) : List Byte := (List.range Config.addrDigits).map (fun k => hexchar (addrDigit a k))

/-- `hex2(b)`: high digit, then low digit (R123). -/
def hex2 (b : Byte) : List Byte := [hexchar (hiNibble b), hexchar (loNibble b)]

/-- The bytes of a line, each preceded by one space (R120). -/
def lineBytes (src : Nat → Byte) : List Byte := (List.range Config.lineBytes).flatMap (fun i => chSp :: hex2 (src i))

/-- `line(a)`, where `src i` is the byte at address `a + i` (R120). -/
def lineText (a : Word) (src : Nat → Byte) : List Byte := hex6 a ++ [chColon] ++ lineBytes src ++ [chLt]

/-- `dumptext` of `n` lines from address `a`, where `src j` is the byte at address `a + j` (R120). -/
def linesText : Nat → Word → (Nat → Byte) → List Byte
  | 0, _, _ => []
  | n + 1, a, src => lineText a src ++ linesText n (a + BitVec.ofNat _ Config.lineBytes) (fun j => src (Config.lineBytes + j))

/-- `dumptext(start, end)` over the image of `s` (R120, R124): `(end - start) / 16` lines. -/
def dumpText (s : State) (start stop : Word) : List Byte :=
  linesText ((stop.toNat - start.toNat) / Config.lineBytes) start s.imgByte

end Sys2Proof.Machine
end

