-- ==== Sys2Proof/Safety.lean ====
section
/-! DEFINITION. What the claims speak of: the invariants of PRX, the instructions' units, and the source that ends a load. -/

namespace Sys2Proof.Safety

open Sys2Proof Sys2Proof.Machine

/-! ## Which unit an instruction belongs to (R81) -/

/-- The ten rows of step `A.HEX` (R143). -/
def isAHex : Instr → Bool
  | .aHex07 _ | .aHex89 _ | .aHexUA | .aHexUBUC _ | .aHexUDUE _ | .aHexUF | .aHexLA | .aHexLBLC _ | .aHexLDLE _ | .aHexLF => true
  | _ => false

/-- The ten rows of step `L.HEX`, the only one that stores (R153). -/
def isLHex : Instr → Bool
  | .lHex07 _ | .lHex89 _ | .lHexUA | .lHexUBUC _ | .lHexUDUE _ | .lHexUF | .lHexLA | .lHexLBLC _ | .lHexLDLE _ | .lHexLF => true
  | _ => false

/-- The rows that raise the syntax error (R147, R152, R156, R82). -/
def isSyntaxErrorRow : Instr → Bool
  | .aOther _ | .hColon | .hOther _ | .lColon | .lOther _ => true
  | _ => false

/-- The host commands (R102 to R105). -/
def isCommand : Instr → Bool
  | .nop | .crc | .load | .dump => true
  | _ => false

/-- The serializer's steps (R126 to R131). -/
def isSerializerStep : Instr → Bool
  | .sAddr _ | .sColon | .sSpace _ | .sHi _ | .sLo _ | .sEol => true
  | _ => false

/-- The CRC unit's steps (R185 to R187). -/
def isCrcStep : Instr → Bool
  | .cByte | .cLen | .cFin => true
  | _ => false

/-- The parser's steps (R142 to R156): every other row. -/
def isParserStep (i : Instr) : Bool := !(isCommand i || isSerializerStep i || isCrcStep i)

/-- The parser state a row applies to (R141, the column of its table); `P.EOF` applies to all three. -/
def rowState : Instr → Option PState
  | .aHex07 _ | .aHex89 _ | .aHexUA | .aHexUBUC _ | .aHexUDUE _ | .aHexUF | .aHexLA | .aHexLBLC _ | .aHexLDLE _ | .aHexLF | .aSp | .aColon | .aLt | .aOther _ =>
    some .address
  | .hHex07 _ | .hHex89 _ | .hHexUA | .hHexUBUC _ | .hHexUDUE _ | .hHexUF | .hHexLA | .hHexLBLC _ | .hHexLDLE _ | .hHexLF | .hSp | .hColon | .hLt | .hOther _ =>
    some .byteHighNibble
  | .lHex07 _ | .lHex89 _ | .lHexUA | .lHexUBUC _ | .lHexUDUE _ | .lHexUF | .lHexLA | .lHexLBLC _ | .lHexLDLE _ | .lHexLF | .lSp | .lColon | .lLt | .lOther _ =>
    some .byteLowNibble
  | _ => none

/-- The position a serializer row emits (R126 to R131). -/
def rowPos : Instr → Option LinePos
  | .sAddr k => some (posAddr k)
  | .sColon => some posColon
  | .sSpace i => some (posSpace i)
  | .sHi i => some (posHi i)
  | .sLo i => some (posLo i)
  | .sEol => some posEol
  | _ => none

/-- The rows that raise each load error (R200). -/
def raises : LoadError → Instr → Prop
  | .syntaxError _, i => isSyntaxErrorRow i = true
  | .range, i => isLHex i = true
  | .trunc, i => i = .lLt
  | .unknown, i => ∃ ch, i = .pEof ch

/-! ## The invariant -/

/-- The image is in canonical form and lists no index outside `[0, CAPACITY)` (R21, R53). -/
abbrev ImgInv (s : State) : Prop := s.img.wf ∧ ∀ c ∈ s.img, c.1 < s.capacity

/-- A running LOAD: a valid window (R29, R109), no result yet (R160), and the low nibble clear before the second digit (R160). -/
abbrev LoadInv (s : State) : Prop :=
  s.unit = .load →
    loadValid s.capacity s.pstart s.pend ∧ s.pstatus = .stNone ∧ (s.pstate = .byteLowNibble → loNibble s.pbyte = 0#4)

/-- A running DUMP: a valid window (R110), and a line of it on the 16-byte grid is being emitted (R120). -/
abbrev DumpInv (s : State) : Prop :=
  s.unit = .dump →
    dumpValid s.capacity s.sstart s.send ∧ s.sstart.toNat ≤ s.sline.toNat ∧ s.sline.toNat < s.send.toNat ∧ s.sline.toNat % Config.lineBytes = 0

/-- A running CRC: a valid length (R111), data still to come in `C_DATA` (R185), all of it absorbed in `C_LEN`. -/
abbrev CrcInv (s : State) : Prop :=
  s.unit = .crc →
    crcValid s.capacity s.clen ∧
      ((s.cphase = .cData ∧ s.cidx.toNat < s.clen.toNat ∧ s.crem = s.clen) ∨ (s.cphase = .cLen ∧ s.cidx = s.clen))

/-- The invariant of PRX between steps. -/
abbrev Inv (s : State) : Prop := ImgInv s ∧ LoadInv s ∧ DumpInv s ∧ CrcInv s

/-! ## The running CRC -/

/-- The first `n` bytes of the image. -/
def imgPrefix (s : State) (n : Nat) : List Byte := (List.range n).map s.imgByte

/-- What a running CRC command has computed: in `C_DATA` the CRC of the bytes before `cidx`; in `C_LEN` a register from which the remaining
length bytes lead to the CRC of all the data and all the length bytes (R183). -/
abbrev CrcRunning (s : State) : Prop :=
  s.unit = .crc →
    (s.cphase = .cData ∧ s.cidx.toNat < s.clen.toNat ∧ s.crem = s.clen ∧
        s.crc = crcBytes Config.crcInit (imgPrefix s s.cidx.toNat)) ∨
      (s.cphase = .cLen ∧
        crcBytes s.crc (lenBytes s.crem) =
          crcBytes (crcBytes Config.crcInit (imgPrefix s s.clen.toNat)) (lenBytes s.clen))

/-! ## The source -/

/-- `SOURCE_FAIR` (D36, R240): the source delivers the sentinel, which ends every load (R142, R158). -/
abbrev SourceFair (s : State) : Prop := s.inputEnded = true ∨ ∃ c ∈ s.input, classify c = .eof

/-- The symbols of a text (R70). -/
def charSyms (text : List Byte) : List Sym := text.map charSym

end Sys2Proof.Safety
end

