-- ==== Sys2Proof/Certificates/Slice0/Obligations.lean ====
section
/-! DEFINITION. The statements about PRX for the provers, each from the numbered rules of spec/ that its docstring cites. -/

open Sys2Proof Sys2Proof.Machine Sys2Proof.Safety

/-! ## Encoding -/

/-- R70 to R74, R84: decoding the encoding of a well-formed instruction gives it back, with every operand at every value. -/
def Obligations.DecodeOfEncodeIsIdentity : Prop :=
  ∀ i : Instr, i.wf = true → decode (encode i) = .ok i

/-- R84: the decoder drops no bit that selects a row. Two rows ignore bits: `P.EOF` ignores the parser's state, `C.BYTE` ignores `crem`. -/
def Obligations.EncodeRecoversTheDecodedItem : Prop :=
  ∀ (x : Item) (i : Instr), decode x = .ok i → (∀ ch, i ≠ .pEof ch) → i ≠ .cByte → encode i = x

/-- R74: what the decoder answers is well formed; a character decoded to an `OTHER` row is of class `OTHER`. -/
def Obligations.DecodedInstructionsAreWellFormed : Prop :=
  ∀ (x : Item) (i : Instr), decode x = .ok i → i.wf = true

/-- R74: each class holds exactly the symbols of the table's Condition column. -/
def Obligations.SymbolClassesMatchConditions : Prop :=
  ∀ c : Sym,
    (classify c = .eof ↔ c.getLsbD 8 = true) ∧
    (classify c = .hex ↔ c.getLsbD 8 = false ∧ isHexDigit (symCh c)) ∧
    (classify c = .sp ↔ c.getLsbD 8 = false ∧ symCh c = 0x20#8) ∧
    (classify c = .colon ↔ c.getLsbD 8 = false ∧ symCh c = 0x3A#8) ∧
    (classify c = .lt ↔ c.getLsbD 8 = false ∧ symCh c = 0x0A#8) ∧
    (classify c = .other ↔ c.getLsbD 8 = false ∧ isOther (symCh c))

/-- R76, R78: a hex digit's value is `ch[3:0]` when `ch[6] = 0` and `ch[3:0] + 9` when `ch[6] = 1`; a nibble n below 10 prints as `0x30 + n`,
any other as `0x57 + n`, and the printed character is a hex digit that reads back as n. -/
def Obligations.HexDigitsConvertBothWays : Prop :=
  (∀ ch : Byte, isHexDigit ch → hexval ch = if ch.getLsbD 6 then ch.setWidth 4 + 9#4 else ch.setWidth 4) ∧
  (∀ n : Nibble,
    (n.toNat < 10 → (hexchar n).toNat = 0x30 + n.toNat) ∧ (10 ≤ n.toNat → (hexchar n).toNat = 0x57 + n.toNat) ∧
    isHexDigit (hexchar n) ∧ hexval (hexchar n) = n)

/-- R70, R73, R74, R126 to R131, R185 to R187: words written out from the spec decode to the instructions they stand for. -/
def Obligations.WrittenOutWordsDecode : Prop :=
  decode (.sym .byteLowNibble 0x130#9) = .ok (.pEof 0x30#8) ∧
  decode (.sym .address 0b000110101#9) = .ok (.aHex07 5#3) ∧
  decode (.sym .byteHighNibble 0b001000011#9) = .ok (.hHexUBUC 1#1) ∧
  decode (.sym .byteLowNibble 0b001100110#9) = .ok .lHexLF ∧
  decode (.sym .address 0b000111010#9) = .ok .aColon ∧
  decode (.sym .byteHighNibble 0b000111010#9) = .ok .hColon ∧
  decode (.sym .byteLowNibble 0b000001010#9) = .ok .lLt ∧
  decode (.sym .address 0b000001101#9) = .ok (.aOther 0x0D#8) ∧
  decode (.cmd 0b10#2) = .ok .load ∧
  decode (.spos 0b000011#6) = .ok (.sAddr 3) ∧
  decode (.spos 0b110101#6) = .ok (.sHi 15) ∧
  decode (.spos 0b110111#6) = .ok .sEol ∧
  decode (.cphase 0b01#2 false) = .ok .cLen

/-- R83: the selectors no rule produces, and the finished phase, select no step; every other selector selects one. -/
def Obligations.ReservedSelectorsSelectNothing : Prop :=
  (∀ pos : BitVec 6, decode (.spos pos) = .error .reservedSpos ↔ 56 ≤ pos.toNat) ∧
  (∀ z : Bool, decode (.cphase 3#2 z) = .error .reservedCphase ∧ decode (.cphase 2#2 z) = .error .finishedCphase) ∧
  (∀ (p : PState) (c : Sym), ∃ i, decode (.sym p c) = .ok i) ∧
  (∀ code : BitVec 2, ∃ i, decode (.cmd code) = .ok i)

/-! ## The step -/

/-- R107, R141: when the fetched item decodes to `i`, the step is `exec` of `i` at the state after the fetch. -/
def Obligations.StepRunsTheDecodedInstruction : Prop :=
  ∀ (s s' : State) (x : Item) (i : Instr), fetch s = .item x s' → decode x = .ok i → i.wf = true → step s = exec i s'

/-- R101, R107, R141: what the step takes next in each unit, and that a command or a symbol is consumed before its rule applies. -/
def Obligations.OnlyTheRunningUnitSteps : Prop :=
  (∀ (s : State) (code : BitVec 2) (rest : List HostWrite), s.unit = .idle → s.host = .cmd code :: rest →
    step s = exec (decodeCmd code) { s with host := rest }) ∧
  (∀ (s : State) (c : Sym) (rest : List Sym), s.unit = .load → s.input = c :: rest →
    step s = exec (decodeSym s.pstate c) { s with input := rest }) ∧
  (∀ s : State, s.unit = .load → s.input = [] → s.inputEnded = true →
    step s = exec (.pEof 0#8) s) ∧
  (∀ (s : State) (k : Fin 6), s.unit = .dump → s.spos = posAddr k → step s = exec (.sAddr k) s) ∧
  (∀ s : State, s.unit = .dump → s.spos = 6 → step s = exec .sColon s) ∧
  (∀ (s : State) (i : Fin 16), s.unit = .dump → s.spos.val = 7 + 3 * i.val → step s = exec (.sSpace i) s) ∧
  (∀ (s : State) (i : Fin 16), s.unit = .dump → s.spos.val = 8 + 3 * i.val → step s = exec (.sHi i) s) ∧
  (∀ (s : State) (i : Fin 16), s.unit = .dump → s.spos.val = 9 + 3 * i.val → step s = exec (.sLo i) s) ∧
  (∀ s : State, s.unit = .dump → s.spos = 55 → step s = exec .sEol s) ∧
  (∀ s : State, s.unit = .crc → s.cphase = .cData → step s = exec .cByte s) ∧
  (∀ s : State, s.unit = .crc → s.cphase = .cLen → s.crem ≠ 0#32 → step s = exec .cLen s) ∧
  (∀ s : State, s.unit = .crc → s.cphase = .cLen → s.crem = 0#32 → step s = exec .cFin s)

/-- R107, R240: an idle machine with no command, a LOAD with no symbol and a DUMP whose sink takes nothing keep all state; the serializer step
that is due waits. -/
def Obligations.WaitingKeepsAllState : Prop :=
  (∀ s : State, s.unit = .idle → s.host = [] → step s = .next s) ∧
  (∀ s : State, s.unit = .load → s.input = [] → s.inputEnded = false → step s = .next s) ∧
  (∀ s : State, s.unit = .dump → s.sinkRoom = some 0 →
    step s = .next s ∧ ∀ i, decode (.spos (sposCode s.spos)) = .ok i → exec i s = .next s)

/-- R35 (log 2): between commands the host writes an operand register, and nothing else changes. -/
def Obligations.HostWritesOperandRegisters : Prop :=
  (∀ (s : State) (v : Word) (rest : List HostWrite), s.unit = .idle → s.host = .argA v :: rest →
    step s = .next { s with argA := v, host := rest }) ∧
  (∀ (s : State) (v : Word) (rest : List HostWrite), s.unit = .idle → s.host = .argB v :: rest →
    step s = .next { s with argB := v, host := rest })

/-! ## Commands -/

/-- R102: code 0 is `NOP`, which leaves every register unchanged. -/
def Obligations.NopChangesNothing : Prop :=
  decode (.cmd 0#2) = .ok .nop ∧ ∀ s : State, s.unit = .idle → exec .nop s = .next s

/-- R184, R111: a valid `CRC` starts the CRC unit, in `C_DATA` if the length is above 0, else in `C_LEN`. -/
def Obligations.CrcCommandStartsUnit : Prop :=
  ∀ s : State, s.unit = .idle → s.argA.toNat ≤ s.capacity →
    exec .crc s = .next { s with
      unit := .crc, clen := s.argA, crc := 0x00000000#32, cidx := 0#32, crem := s.argA,
      cphase := if s.argA = 0#32 then .cLen else .cData }

/-- R140, R109: a valid `LOAD` copies the window and initialises every parser field. -/
def Obligations.LoadCommandInitialisesParser : Prop :=
  ∀ s : State, s.unit = .idle → s.argA.toNat ≤ s.argB.toNat → s.argB.toNat - s.argA.toNat ≤ s.capacity →
    exec .load s = .next { s with
      unit := .load, pstart := s.argA, pend := s.argB, pstate := .address, paddr := 0#32, pbyte := 0#8, pcount := 0#32,
      pseen := false, pstatus := .stNone }

/-- R125, R110, R132: a valid `DUMP` sets the window and the line; an empty window ends the command at once with nothing emitted. -/
def Obligations.DumpCommandStartsOrEndsAtOnce : Prop :=
  ∀ s : State, s.unit = .idle → s.argA.toNat ≤ s.argB.toNat → s.argB.toNat - s.argA.toNat ≤ s.capacity →
    s.argA.toNat % 16 = 0 → s.argB.toNat % 16 = 0 → s.argB.toNat ≤ 0x1000000 →
    exec .dump s = .next { s with
      unit := if s.argA = s.argB then .idle else .dump,
      sstart := s.argA, send := s.argB, sline := s.argA, spos := 0 }

/-- R108: operands that violate R109, R110 or R111 are refused, and only those. -/
def Obligations.InvalidOperandsAreRefused : Prop :=
  ∀ s : State, s.unit = .idle →
    (exec .crc s = .refused .invalidCrc ↔ s.capacity < s.argA.toNat) ∧
    (exec .load s = .refused .invalidLoad ↔
      s.argB.toNat < s.argA.toNat ∨ s.capacity < s.argB.toNat - s.argA.toNat) ∧
    (exec .dump s = .refused .invalidDump ↔
      s.argB.toNat < s.argA.toNat ∨ s.capacity < s.argB.toNat - s.argA.toNat ∨
      s.argA.toNat % 16 ≠ 0 ∨ s.argB.toNat % 16 ≠ 0 ∨ 0x1000000 < s.argB.toNat)

/-! ## Parser, state ADDRESS -/

/-- R142: the sentinel ends the load with ST_UNKNOWN in every parser state, whatever its low eight bits. -/
def Obligations.SentinelEndsTheLoad : Prop :=
  (∀ (s : State) (ch : Byte), s.unit = .load →
    exec (.pEof ch) s = .next { s with pstatus := .stUnknown, unit := .idle }) ∧
  (∀ (s : State) (c : Sym) (rest : List Sym), s.unit = .load → s.input = c :: rest → classify c = .eof →
    step s = .next { s with input := rest, pstatus := .stUnknown, unit := .idle })

/-- R143: an address digit is shifted into the address and sets `pseen`; the ten rows give the digits 0 to 15. -/
def Obligations.AddressDigitShiftsIn : Prop :=
  (∀ (s : State) (a : BitVec 3) (b : BitVec 1), s.unit = .load → s.pstate = .address →
    let next (d : Nibble) : Result :=
      .next { s with paddr := (s.paddr <<< 4) ||| d.zeroExtend 32, pseen := true }
    exec (.aHex07 a) s = next (a.zeroExtend 4) ∧ exec (.aHex89 b) s = next (8#4 + b.zeroExtend 4) ∧
    exec .aHexUA s = next 10#4 ∧ exec (.aHexUBUC b) s = next (11#4 + b.zeroExtend 4) ∧
    exec (.aHexUDUE b) s = next (13#4 + b.zeroExtend 4) ∧ exec .aHexUF s = next 15#4 ∧
    exec .aHexLA s = next 10#4 ∧ exec (.aHexLBLC b) s = next (11#4 + b.zeroExtend 4) ∧
    exec (.aHexLDLE b) s = next (13#4 + b.zeroExtend 4) ∧ exec .aHexLF s = next 15#4) ∧
  (∀ (s : State) (c : Sym) (rest : List Sym), s.unit = .load → s.pstate = .address → s.input = c :: rest →
    classify c = .hex →
    step s = .next { s with
      input := rest, paddr := (s.paddr <<< 4) ||| (hexval (symCh c)).zeroExtend 32, pseen := true })

/-- R144, R150, R154: a space changes nothing in any parser state. -/
def Obligations.SpacesAreIgnored : Prop :=
  (∀ s : State, s.unit = .load → s.pstate = .address → exec .aSp s = .next s) ∧
  (∀ s : State, s.unit = .load → s.pstate = .byteHighNibble → exec .hSp s = .next s) ∧
  (∀ s : State, s.unit = .load → s.pstate = .byteLowNibble → exec .lSp s = .next s) ∧
  (∀ (s : State) (rest : List Sym), s.unit = .load → s.input = 0x020#9 :: rest → step s = .next { s with input := rest })

/-- R145: a colon in state ADDRESS goes to BYTE_HIGH_NIBBLE. -/
def Obligations.ColonStartsTheBytes : Prop :=
  (∀ s : State, s.unit = .load → s.pstate = .address → exec .aColon s = .next { s with pstate := .byteHighNibble }) ∧
  (∀ (s : State) (rest : List Sym), s.unit = .load → s.pstate = .address → s.input = 0x03A#9 :: rest →
    step s = .next { s with input := rest, pstate := .byteHighNibble })

/-- R146: a line terminator in state ADDRESS is skipped while `pseen = 0` and else ends the load with ST_OK. -/
def Obligations.BlankLineSkipsOrEnds : Prop :=
  (∀ s : State, s.unit = .load → s.pstate = .address →
    exec .aLt s = .next (if s.pseen = false then s else { s with pstatus := .stOk, unit := .idle })) ∧
  (∀ (s : State) (rest : List Sym), s.unit = .load → s.pstate = .address → s.input = 0x00A#9 :: rest →
    step s = .next (if s.pseen = false then { s with input := rest }
      else { s with input := rest, pstatus := .stOk, unit := .idle }))

/-- R147: a character of class OTHER in state ADDRESS is a syntax error that records it. -/
def Obligations.IllegalCharacterInAddress : Prop :=
  (∀ (s : State) (ch : Byte), s.unit = .load → s.pstate = .address →
    exec (.aOther ch) s = .next { s with perrch := ch, pstatus := .stSyntax, unit := .idle }) ∧
  (∀ (s : State) (c : Sym) (rest : List Sym), s.unit = .load → s.pstate = .address → s.input = c :: rest →
    classify c = .other →
    step s = .next { s with input := rest, perrch := symCh c, pstatus := .stSyntax, unit := .idle })

/-! ## Parser, state BYTE_HIGH_NIBBLE -/

/-- R149: the first digit of a byte becomes its high nibble, the low nibble 0. -/
def Obligations.FirstDigitIsHighNibble : Prop :=
  (∀ (s : State) (a : BitVec 3) (b : BitVec 1), s.unit = .load → s.pstate = .byteHighNibble →
    let next (d : Nibble) : Result := .next { s with pbyte := d ++ 0#4, pstate := .byteLowNibble }
    exec (.hHex07 a) s = next (a.zeroExtend 4) ∧ exec (.hHex89 b) s = next (8#4 + b.zeroExtend 4) ∧
    exec .hHexUA s = next 10#4 ∧ exec (.hHexUBUC b) s = next (11#4 + b.zeroExtend 4) ∧
    exec (.hHexUDUE b) s = next (13#4 + b.zeroExtend 4) ∧ exec .hHexUF s = next 15#4 ∧
    exec .hHexLA s = next 10#4 ∧ exec (.hHexLBLC b) s = next (11#4 + b.zeroExtend 4) ∧
    exec (.hHexLDLE b) s = next (13#4 + b.zeroExtend 4) ∧ exec .hHexLF s = next 15#4) ∧
  (∀ (s : State) (c : Sym) (rest : List Sym), s.unit = .load → s.pstate = .byteHighNibble → s.input = c :: rest →
    classify c = .hex →
    step s = .next { s with input := rest, pbyte := hexval (symCh c) ++ 0#4, pstate := .byteLowNibble })

/-- R151: a line terminator in state BYTE_HIGH_NIBBLE resets the address and returns to ADDRESS. -/
def Obligations.LineEndForgetsTheAddress : Prop :=
  (∀ s : State, s.unit = .load → s.pstate = .byteHighNibble →
    exec .hLt s = .next { s with paddr := 0#32, pstate := .address }) ∧
  (∀ (s : State) (rest : List Sym), s.unit = .load → s.pstate = .byteHighNibble → s.input = 0x00A#9 :: rest →
    step s = .next { s with input := rest, paddr := 0#32, pstate := .address })

/-- R152: a colon or a character of class OTHER in state BYTE_HIGH_NIBBLE is a syntax error that records it. -/
def Obligations.IllegalCharacterBeforeByte : Prop :=
  (∀ s : State, s.unit = .load → s.pstate = .byteHighNibble →
    exec .hColon s = .next { s with perrch := 0x3A#8, pstatus := .stSyntax, unit := .idle }) ∧
  (∀ (s : State) (ch : Byte), s.unit = .load → s.pstate = .byteHighNibble →
    exec (.hOther ch) s = .next { s with perrch := ch, pstatus := .stSyntax, unit := .idle }) ∧
  (∀ (s : State) (c : Sym) (rest : List Sym), s.unit = .load → s.pstate = .byteHighNibble → s.input = c :: rest →
    (classify c = .colon ∨ classify c = .other) →
    step s = .next { s with input := rest, perrch := symCh c, pstatus := .stSyntax, unit := .idle })

/-! ## Parser, state BYTE_LOW_NIBBLE -/

/-- R153: inside the window the completed byte is stored at `paddr - pstart`, the address and the count go up by one, and the state returns to
BYTE_HIGH_NIBBLE; the window is a valid one (R109), as every accepted LOAD has it. Outside the window the byte is completed, nothing is stored, and
the load ends with ST_RANGE, the address left in `paddr`. -/
def Obligations.SecondDigitStoresOrRangeError : Prop :=
  (∀ (s : State) (a : BitVec 3) (b : BitVec 1), s.unit = .load → s.pstate = .byteLowNibble →
    s.pend.toNat - s.pstart.toNat ≤ s.capacity → s.pstart.toNat ≤ s.paddr.toNat → s.paddr.toNat < s.pend.toNat →
    let next (d : Nibble) : Result :=
      .next { s with
        pbyte := s.pbyte ||| d.zeroExtend 8, paddr := s.paddr + 1#32, pcount := s.pcount + 1#32, pstate := .byteHighNibble,
        img := s.img.write (s.paddr.toNat - s.pstart.toNat) (s.pbyte ||| d.zeroExtend 8) }
    exec (.lHex07 a) s = next (a.zeroExtend 4) ∧ exec (.lHex89 b) s = next (8#4 + b.zeroExtend 4) ∧
    exec .lHexUA s = next 10#4 ∧ exec (.lHexUBUC b) s = next (11#4 + b.zeroExtend 4) ∧
    exec (.lHexUDUE b) s = next (13#4 + b.zeroExtend 4) ∧ exec .lHexUF s = next 15#4 ∧
    exec .lHexLA s = next 10#4 ∧ exec (.lHexLBLC b) s = next (11#4 + b.zeroExtend 4) ∧
    exec (.lHexLDLE b) s = next (13#4 + b.zeroExtend 4) ∧ exec .lHexLF s = next 15#4) ∧
  (∀ (s : State) (c : Sym) (rest : List Sym), s.unit = .load → s.pstate = .byteLowNibble → s.input = c :: rest →
    classify c = .hex →
    s.pend.toNat - s.pstart.toNat ≤ s.capacity → s.pstart.toNat ≤ s.paddr.toNat → s.paddr.toNat < s.pend.toNat →
    ∃ t, step s = .next t ∧ t.unit = .load ∧ t.input = rest ∧ t.pbyte = s.pbyte ||| (hexval (symCh c)).zeroExtend 8 ∧
      t.paddr = s.paddr + 1#32 ∧ t.pcount = s.pcount + 1#32 ∧ t.pstate = .byteHighNibble ∧
      t.imgByte (s.paddr.toNat - s.pstart.toNat) = t.pbyte ∧
      ∀ a, a ≠ s.paddr.toNat - s.pstart.toNat → t.imgByte a = s.imgByte a) ∧
  (∀ (s : State) (a : BitVec 3) (b : BitVec 1), s.unit = .load → s.pstate = .byteLowNibble →
    (s.paddr.toNat < s.pstart.toNat ∨ s.pend.toNat ≤ s.paddr.toNat) →
    let next (d : Nibble) : Result :=
      .next { s with pbyte := s.pbyte ||| d.zeroExtend 8, pstatus := .stRange, unit := .idle }
    exec (.lHex07 a) s = next (a.zeroExtend 4) ∧ exec (.lHex89 b) s = next (8#4 + b.zeroExtend 4) ∧
    exec .lHexUA s = next 10#4 ∧ exec (.lHexUBUC b) s = next (11#4 + b.zeroExtend 4) ∧
    exec (.lHexUDUE b) s = next (13#4 + b.zeroExtend 4) ∧ exec .lHexUF s = next 15#4 ∧
    exec .lHexLA s = next 10#4 ∧ exec (.lHexLBLC b) s = next (11#4 + b.zeroExtend 4) ∧
    exec (.lHexLDLE b) s = next (13#4 + b.zeroExtend 4) ∧ exec .lHexLF s = next 15#4)

/-- R155: a line terminator in the middle of a byte ends the load with ST_TRUNC. -/
def Obligations.LineEndInsideByteIsTruncation : Prop :=
  (∀ s : State, s.unit = .load → s.pstate = .byteLowNibble →
    exec .lLt s = .next { s with pstatus := .stTrunc, unit := .idle }) ∧
  (∀ (s : State) (rest : List Sym), s.unit = .load → s.pstate = .byteLowNibble → s.input = 0x00A#9 :: rest →
    step s = .next { s with input := rest, pstatus := .stTrunc, unit := .idle })

/-- R156: a colon or a character of class OTHER in state BYTE_LOW_NIBBLE is a syntax error that records it. -/
def Obligations.IllegalCharacterInsideByte : Prop :=
  (∀ s : State, s.unit = .load → s.pstate = .byteLowNibble →
    exec .lColon s = .next { s with perrch := 0x3A#8, pstatus := .stSyntax, unit := .idle }) ∧
  (∀ (s : State) (ch : Byte), s.unit = .load → s.pstate = .byteLowNibble →
    exec (.lOther ch) s = .next { s with perrch := ch, pstatus := .stSyntax, unit := .idle }) ∧
  (∀ (s : State) (c : Sym) (rest : List Sym), s.unit = .load → s.pstate = .byteLowNibble → s.input = c :: rest →
    (classify c = .colon ∨ classify c = .other) →
    step s = .next { s with input := rest, perrch := symCh c, pstatus := .stSyntax, unit := .idle })

/-! ## Serializer -/

/-- R126, R127: positions 0 to 5 emit the address digits, most significant first, and position 6 the colon. -/
def Obligations.AddressAndColonAreEmitted : Prop :=
  (∀ (s : State) (k : Fin 6), s.unit = .dump → s.spos.val = k.val → s.sinkRoom ≠ some 0 →
    exec (.sAddr k) s = .next { s with
      output := s.output ++ [hexchar ((s.sline >>> (4 * (5 - k.val))).setWidth 4)],
      sinkRoom := s.sinkRoom.map (· - 1), spos := ⟨k.val + 1, by omega⟩ }) ∧
  (∀ s : State, s.unit = .dump → s.spos = 6 → s.sinkRoom ≠ some 0 →
    exec .sColon s = .next { s with
      output := s.output ++ [0x3A#8], sinkRoom := s.sinkRoom.map (· - 1), spos := 7 })

/-- R128, R124: the space before byte `i` is emitted and the image byte at `sline + i - sstart` latched. The index is inside the image, as in
every valid window (R110). -/
def Obligations.SpaceIsEmittedAndByteLatched : Prop :=
  ∀ (s : State) (i : Fin 16), s.unit = .dump → s.spos.val = 7 + 3 * i.val → s.sinkRoom ≠ some 0 →
    s.sstart.toNat ≤ s.sline.toNat + i.val → s.sline.toNat + i.val - s.sstart.toNat < s.capacity →
    s.sline.toNat + i.val < 2 ^ 32 →
    exec (.sSpace i) s = .next { s with
      output := s.output ++ [0x20#8], sinkRoom := s.sinkRoom.map (· - 1),
      sbyte := s.imgByte (s.sline.toNat + i.val - s.sstart.toNat), spos := ⟨8 + 3 * i.val, by omega⟩ }

/-- R129, R130: the high digit, then the low digit of the latched byte are emitted. -/
def Obligations.ByteDigitsAreEmitted : Prop :=
  (∀ (s : State) (i : Fin 16), s.unit = .dump → s.spos.val = 8 + 3 * i.val → s.sinkRoom ≠ some 0 →
    exec (.sHi i) s = .next { s with
      output := s.output ++ [hexchar (s.sbyte.extractLsb' 4 4)], sinkRoom := s.sinkRoom.map (· - 1),
      spos := ⟨9 + 3 * i.val, by omega⟩ }) ∧
  (∀ (s : State) (i : Fin 16), s.unit = .dump → s.spos.val = 9 + 3 * i.val → s.sinkRoom ≠ some 0 →
    exec (.sLo i) s = .next { s with
      output := s.output ++ [hexchar (s.sbyte.extractLsb' 0 4)], sinkRoom := s.sinkRoom.map (· - 1),
      spos := ⟨10 + 3 * i.val, by omega⟩ })

/-- R131: the line feed is emitted; the last line ends the DUMP, else the next line starts. -/
def Obligations.LineFeedEndsLineOrDump : Prop :=
  ∀ s : State, s.unit = .dump → s.spos = 55 → s.sinkRoom ≠ some 0 → s.sline.toNat + 16 < 2 ^ 32 →
    exec .sEol s = .next (
      if s.send.toNat ≤ s.sline.toNat + 16 then
        { s with output := s.output ++ [0x0A#8], sinkRoom := s.sinkRoom.map (· - 1), unit := .idle }
      else
        { s with output := s.output ++ [0x0A#8], sinkRoom := s.sinkRoom.map (· - 1), sline := s.sline + 16#32, spos := 0 })

/-! ## CRC unit -/

/-- R185: a data step absorbs the byte at `cidx`; after the last one the phase is C_LEN. -/
def Obligations.DataByteIsAbsorbed : Prop :=
  ∀ s : State, s.unit = .crc → s.cphase = .cData → s.cidx.toNat < s.capacity →
    exec .cByte s = .next { s with
      crc := crcByte s.crc (s.imgByte s.cidx.toNat), cidx := s.cidx + 1#32,
      cphase := if s.cidx + 1#32 = s.clen then .cLen else .cData }

/-- R186, R187: a length step folds in the lowest byte of `crem` and shifts it right by 8, so one length byte less is left and the step runs once
per length byte; when `crem` is 0 the final step delivers the register as it stands (CRC_XOROUT is 0) and ends the command. -/
def Obligations.LengthIsFoldedInThenDelivered : Prop :=
  ∀ s : State, s.unit = .crc → s.cphase = .cLen →
    (s.crem ≠ 0#32 →
      exec .cLen s = .next { s with crc := crcByte s.crc (s.crem.setWidth 8), crem := s.crem >>> 8 } ∧
      lenBytes s.crem = s.crem.setWidth 8 :: lenBytes (s.crem >>> 8)) ∧
    (s.crem = 0#32 → exec .cFin s = .next { s with crcOut := s.crc, cphase := .cDone, unit := .idle })

/-- R101, R107, R141, R126 to R131, R185 to R187 (log 8, 9): a command is refused as busy exactly while a unit runs, and a unit step is refused as not
enabled exactly when its selector does not hold: the unit, and `pstate`, `spos`, or `cphase` and `crem`. Every row of a unit has a selector here. -/
def Obligations.UnselectedStepsAreRefused : Prop :=
  ∀ (s : State) (i : Instr),
    (isCommand i = true → (exec i s = .refused .busy ↔ s.unit ≠ .idle)) ∧
    (∀ ch, i = .pEof ch → (exec i s = .refused .notEnabled ↔ s.unit ≠ .load)) ∧
    (∀ p, rowState i = some p → (exec i s = .refused .notEnabled ↔ ¬ (s.unit = .load ∧ s.pstate = p))) ∧
    (∀ pos, rowPos i = some pos → (exec i s = .refused .notEnabled ↔ ¬ (s.unit = .dump ∧ s.spos = pos))) ∧
    (i = .cByte → (exec i s = .refused .notEnabled ↔ ¬ (s.unit = .crc ∧ s.cphase = .cData))) ∧
    (i = .cLen → (exec i s = .refused .notEnabled ↔ ¬ (s.unit = .crc ∧ s.cphase = .cLen ∧ s.crem ≠ 0#32))) ∧
    (i = .cFin → (exec i s = .refused .notEnabled ↔ ¬ (s.unit = .crc ∧ s.cphase = .cLen ∧ s.crem = 0#32))) ∧
    (isParserStep i = true → (∃ ch, i = .pEof ch) ∨ (rowState i).isSome = true) ∧
    (isSerializerStep i = true → (rowPos i).isSome = true) ∧
    (isCrcStep i = true → i = .cByte ∨ i = .cLen ∨ i = .cFin)

/-! ## Frames -/

/-- R21, R153: only the ten L.HEX rows write the image; after any other instruction every byte reads as before. -/
def Obligations.OnlySecondDigitWritesImage : Prop :=
  ∀ (i : Instr) (s t : State), isLHex i = false → exec i s = .next t →
    t.img = s.img ∧ ∀ a, t.imgByte a = s.imgByte a

/-- R153: an L.HEX row writes at most the byte at `windowIndex paddr pstart`, and that one only inside the window; it leaves every register but
`pbyte`, `paddr`, `pcount`, `pstate`, `pstatus` and `unit`. -/
def Obligations.SecondDigitFrame : Prop :=
  ∀ (i : Instr) (s t : State), isLHex i = true → exec i s = .next t →
    (∀ a, (s.inWindow → a ≠ windowIndex s.paddr s.pstart) → t.imgByte a = s.imgByte a) ∧
    { t with img := s.img, pbyte := s.pbyte, paddr := s.paddr, pcount := s.pcount, pstate := s.pstate, pstatus := s.pstatus,
             unit := s.unit } = s

/-- R107, R142 to R156: a parser step changes only the image, the parser's registers and `unit`; the window stays. -/
def Obligations.ParserStepFrame : Prop :=
  ∀ (i : Instr) (s t : State), isParserStep i = true → exec i s = .next t →
    { t with img := s.img, unit := s.unit, pstate := s.pstate, paddr := s.paddr, pbyte := s.pbyte, pcount := s.pcount,
             pseen := s.pseen, pstatus := s.pstatus, perrch := s.perrch } = s

/-- R135: a serializer step changes only the serializer's `sline`, `spos`, `sbyte`, the sink and `unit`. -/
def Obligations.SerializerStepFrame : Prop :=
  ∀ (i : Instr) (s t : State), isSerializerStep i = true → exec i s = .next t →
    { t with unit := s.unit, sline := s.sline, spos := s.spos, sbyte := s.sbyte, output := s.output,
             sinkRoom := s.sinkRoom } = s

/-- R185 to R187, R189: a CRC step changes only `crc`, `cidx`, `crem`, `cphase`, `CRC_OUT` and `unit`. -/
def Obligations.CrcStepFrame : Prop :=
  ∀ (i : Instr) (s t : State), isCrcStep i = true → exec i s = .next t →
    { t with unit := s.unit, crc := s.crc, cidx := s.cidx, crem := s.crem, cphase := s.cphase, crcOut := s.crcOut } = s

/-- R107: a command starts its own unit and leaves the registers of the other two, the image, the streams and the operand registers. -/
def Obligations.CommandFrame : Prop :=
  ∀ s t : State,
    (exec .nop s = .next t → t = s) ∧
    (exec .crc s = .next t →
      { t with unit := s.unit, clen := s.clen, crc := s.crc, cidx := s.cidx, crem := s.crem, cphase := s.cphase } = s) ∧
    (exec .load s = .next t →
      { t with unit := s.unit, pstart := s.pstart, pend := s.pend, pstate := s.pstate, paddr := s.paddr, pbyte := s.pbyte,
               pcount := s.pcount, pseen := s.pseen, pstatus := s.pstatus } = s) ∧
    (exec .dump s = .next t →
      { t with unit := s.unit, sstart := s.sstart, send := s.send, sline := s.sline, spos := s.spos } = s)

/-- R28: `pseen` is set by the address digits and by nothing else, and cleared by the start of a LOAD and by nothing else. -/
def Obligations.OnlyAddressDigitsSetSeen : Prop :=
  ∀ (i : Instr) (s t : State), exec i s = .next t → t.pseen ≠ s.pseen →
    (isAHex i = true ∧ t.pseen = true) ∨ (i = .load ∧ t.pseen = false)

/-- R25, R27, R30, R31, R33: the writers of the registers the host reads and writes. `pcount` (LD_COUNT): a store, by one, and the start of a LOAD, to
0. `paddr` (LD_ADDR): an address digit, a store, by one, and to 0 a line terminator in BYTE_HIGH_NIBBLE and the start of a LOAD. `pstatus`
(LD_STATUS): the start of a LOAD and each termination with its own code. `perrch` (LD_ERRCH): the rows that raise the syntax error. `CRC_OUT`:
C.FIN. `ARG_A` and `ARG_B`: no instruction. -/
def Obligations.ResultRegistersHaveTheirWriters : Prop :=
  ∀ (i : Instr) (s t : State), exec i s = .next t →
    (t.pcount ≠ s.pcount → (isLHex i = true ∧ t.pcount = s.pcount + 1#32) ∨ (i = .load ∧ t.pcount = 0#32)) ∧
    (t.paddr ≠ s.paddr →
      isAHex i = true ∨ (isLHex i = true ∧ t.paddr = s.paddr + 1#32) ∨ ((i = .hLt ∨ i = .load) ∧ t.paddr = 0#32)) ∧
    (t.pstatus ≠ s.pstatus →
      (i = .load ∧ t.pstatus = .stNone) ∨ (i = .aLt ∧ t.pstatus = .stOk) ∨
      (isSyntaxErrorRow i = true ∧ t.pstatus = .stSyntax) ∨ (isLHex i = true ∧ t.pstatus = .stRange) ∨
      (i = .lLt ∧ t.pstatus = .stTrunc) ∨ ((∃ ch, i = .pEof ch) ∧ t.pstatus = .stUnknown)) ∧
    (t.perrch ≠ s.perrch → isSyntaxErrorRow i = true) ∧ (t.crcOut ≠ s.crcOut → i = .cFin) ∧
    t.argA = s.argA ∧ t.argB = s.argB

/-! ## Invariants -/

/-- R21, R29, R53, R110, R111, R120, R160, R185: every step keeps the invariant `Inv`: the image in canonical form and inside
`[0, CAPACITY)`, a valid window, line or length for the running unit. -/
def Obligations.StepKeepsInvariant : Prop :=
  ∀ s t : State, Inv s → step s = .next t → Inv t

/-- The reset state of either variant meets `Inv` and `CrcRunning`, whatever the free values (R7, R230); `State.reset` is one of the two. -/
def Obligations.ResetMeetsInvariants : Prop :=
  (∀ v : Variant, Inv (State.resetOf v) ∧ CrcRunning (State.resetOf v)) ∧ ∃ v, State.reset = State.resetOf v

/-- R53, R108: from a state with `Inv` a step never faults; it stops only at a command with invalid operands that an idle host issues. -/
def Obligations.InvariantExcludesFaults : Prop :=
  ∀ s : State, Inv s →
    (∃ t, step s = .next t) ∨
    (s.unit = .idle ∧ ∃ rest,
      (s.host = .cmd 1#2 :: rest ∧ step s = .refused .invalidCrc) ∨
      (s.host = .cmd 2#2 :: rest ∧ step s = .refused .invalidLoad) ∨
      (s.host = .cmd 3#2 :: rest ∧ step s = .refused .invalidDump))

/-- R183, R185, R186: every step keeps `CrcRunning`: the running register is the CRC of the data absorbed so far, and in the length phase it
leads to the CRC of all data and all length bytes. -/
def Obligations.StepKeepsRunningCrc : Prop :=
  ∀ s t : State, CrcRunning s → step s = .next t → CrcRunning t

/-- R7: the reset of either variant has its capacity, and no step changes the variant, so `CAPACITY` never changes while the hardware runs. -/
def Obligations.CapacityNeverChanges : Prop :=
  (State.resetOf .readOnly).capacity = 2048 ∧ (State.resetOf .readWrite).capacity = 8192 ∧
  ∀ s t : State, step s = .next t → t.capacity = s.capacity ∧ (s.capacity = 2048 ∨ s.capacity = 8192)

/-- R159: a step of a running LOAD makes no store or one, and its index is in `[0, pend - pstart)`, which lies inside `[0, CAPACITY)`. -/
def Obligations.LoadStoresInsideItsWindow : Prop :=
  ∀ s t : State, Inv s → s.unit = .load → step s = .next t →
    (t.img = s.img ∨ ∃ a b, a < s.pend.toNat - s.pstart.toNat ∧ t.img = s.img.write a b) ∧
    s.pend.toNat - s.pstart.toNat ≤ s.capacity

/-! ## Whole commands -/

/-- R103, R183: a CRC command of a valid length ends after exactly `len + nbytes(len) + 1` steps, not before, with `CRC_OUT` the CRC of the
first `len` bytes with the length folded in; the image, the streams, the parser and the serializer are as before. -/
def Obligations.CrcCommandComputesCrc32Len : Prop :=
  ∀ s : State, s.unit = .idle → s.argA.toNat ≤ s.capacity →
    ∃ s1 t, exec .crc s = .next s1 ∧
      Sys2Proof.core.run (s.argA.toNat + (lenBytes s.argA).length + 1) s1 = .next t ∧
      t.unit = .idle ∧ t.crcOut = crc32Len (imgPrefix s s.argA.toNat) ∧
      { t with clen := s.clen, crc := s.crc, cidx := s.cidx, crem := s.crem, cphase := s.cphase, crcOut := s.crcOut } = s ∧
      ∀ m, m < s.argA.toNat + (lenBytes s.argA).length + 1 → ∃ u, Sys2Proof.core.run m s1 = .next u ∧ u.unit = .crc

/-- R105, R120: a DUMP of a valid window into a sink without limit ends after `56 * (end - start) / 16` steps with exactly `dumptext` handed
over, which has as many characters; the image, the parser and the CRC unit are as before. -/
def Obligations.DumpCommandEmitsDumpText : Prop :=
  ∀ s : State, s.unit = .idle → s.sinkRoom = none → dumpValid s.capacity s.argA s.argB →
    ∃ s1 t, exec .dump s = .next s1 ∧
      Sys2Proof.core.run (56 * ((s.argB.toNat - s.argA.toNat) / 16)) s1 = .next t ∧
      t.unit = .idle ∧ t.output = s.output ++ dumpText s s.argA s.argB ∧
      (dumpText s s.argA s.argB).length = 56 * ((s.argB.toNat - s.argA.toNat) / 16) ∧
      { t with sstart := s.sstart, send := s.send, sline := s.sline, spos := s.spos, sbyte := s.sbyte, output := s.output } = s

/-- R161: the text of a dump of `[start, end)`, with a closing line feed, loads back with ST_OK, the count `end - start` and the same bytes,
whatever the image held before; with the sentinel in its place the status is ST_UNKNOWN. Nothing after the terminating symbol is consumed. For an
empty window the line feed is skipped and the sentinel ends the load with count 0. -/
def Obligations.DumpTextLoadsBack : Prop :=
  ∀ (m s : State) (rest : List Sym), dumpValid s.capacity s.argA s.argB → s.unit = .idle →
    (s.argA ≠ s.argB → s.input = charSyms (dumpText m s.argA s.argB) ++ charSym 0x0A#8 :: rest →
      ∃ s1 t, exec .load s = .next s1 ∧
        Sys2Proof.core.run ((dumpText m s.argA s.argB).length + 1) s1 = .next t ∧
        t.unit = .idle ∧ t.pstatus = .stOk ∧ t.pcount = s.argB - s.argA ∧ t.input = rest ∧
        ∀ i, i < s.argB.toNat - s.argA.toNat → t.imgByte i = m.imgByte i) ∧
    (s.argA ≠ s.argB → s.input = charSyms (dumpText m s.argA s.argB) ++ eofSym 0#8 :: rest →
      ∃ s1 t, exec .load s = .next s1 ∧
        Sys2Proof.core.run ((dumpText m s.argA s.argB).length + 1) s1 = .next t ∧
        t.unit = .idle ∧ t.pstatus = .stUnknown ∧ t.pcount = s.argB - s.argA ∧ t.input = rest ∧
        ∀ i, i < s.argB.toNat - s.argA.toNat → t.imgByte i = m.imgByte i) ∧
    (s.argA = s.argB → s.input = charSym 0x0A#8 :: eofSym 0#8 :: rest →
      dumpText m s.argA s.argB = [] ∧
      ∃ s1 u t, exec .load s = .next s1 ∧ Sys2Proof.core.run 1 s1 = .next u ∧ u.unit = .load ∧
        Sys2Proof.core.run 2 s1 = .next t ∧ t.unit = .idle ∧ t.pstatus = .stUnknown ∧ t.pcount = 0#32 ∧ t.input = rest)

/-- R142, R158, R240: a running LOAD whose source delivers the sentinel ends, in at most one step per symbol and one more, with a result. -/
def Obligations.FairSourceEndsTheLoad : Prop :=
  ∀ s : State, Inv s → s.unit = .load → SourceFair s →
    ∃ n t, n ≤ s.input.length + 1 ∧ Sys2Proof.core.run n s = .next t ∧ t.unit = .idle ∧ t.pstatus ≠ .stNone

/-! ## The CRC function -/

/-- R181, R8, R180 (log 11: the spec marks the polynomial and the update as general knowledge): one byte into the register is R181's loop with the
polynomial 0x04C11DB7: the byte over the top bits, then eight shifts, each with the polynomial where bit 31 was set. The table-driven form (an
inference the spec marks as its own) agrees with it, and the first entries of its table are R181's. -/
def Obligations.CrcByteFollowsLoopAndTable : Prop :=
  (∀ (c : Word) (b : Byte),
    crcByte c b =
      Nat.iterate (fun r : Word => if r.getLsbD 31 then (r <<< 1) ^^^ 0x04C11DB7#32 else r <<< 1) 8
        (c ^^^ (b.zeroExtend 32 <<< 24))) ∧
  (∀ (c : Word) (b : Byte), crcByte c b = (c <<< 8) ^^^ crcByte 0#32 (c.extractLsb' 24 8 ^^^ b)) ∧
  crcByte 0#32 0x00#8 = 0x00000000#32 ∧ crcByte 0#32 0x01#8 = 0x04C11DB7#32 ∧ crcByte 0#32 0x02#8 = 0x09823B6E#32 ∧
  crcByte 0#32 0x03#8 = 0x0D4326D9#32 ∧ crcByte 0#32 0x04#8 = 0x130476DC#32 ∧ crcByte 0#32 0x08#8 = 0x2608EDB8#32 ∧
  crcByte 0#32 0x80#8 = 0x690CE0EE#32 ∧ crcByte 0#32 0xFF#8 = 0xB1F740B4#32

/-- R182: the length bytes are the length in base 256, lowest first, with no zero byte on top, so 0 to 4 of them. -/
def Obligations.LengthBytesAreMinimalLittleEndian : Prop :=
  ∀ n : Word,
    (lenBytes n).foldr (fun b acc => b.toNat + 256 * acc) 0 = n.toNat ∧
    (∀ b, (lenBytes n).getLast? = some b → b ≠ 0#8) ∧ (lenBytes n).length ≤ 4

/-- R183, R189: leading zero bytes leave the register at 0, so the CRC of n zero bytes is that of the length bytes alone. -/
def Obligations.LeadingZeroBytesLeaveTheRegister : Prop :=
  ∀ (n : Nat) (d : List Byte),
    crcBytes 0#32 (List.replicate n 0#8 ++ d) = crcBytes 0#32 d ∧
    crc32Len (List.replicate n 0#8) = crcBytes 0#32 (lenBytes (BitVec.ofNat 32 n))

/-! ## Reset and the host's view -/

/-- R230, R20: the registers to which the spec gives a reset value, in either variant. -/
def Obligations.ResetValuesOfTheTable : Prop :=
  ∀ r : State, r = State.reset ∨ (∃ v, r = State.resetOf v) →
    r.unit = .idle ∧ r.pstate = .address ∧ r.cphase = .cDone ∧ r.spos = 0 ∧ r.pstatus = .stNone ∧ r.paddr = 0#32 ∧ r.pbyte = 0#8 ∧
    r.pseen = false ∧ r.crc = 0#32 ∧ r.cidx = 0#32 ∧ r.crem = 0#32

/-- R35: what the host reads, with the codes of R22 and R31 (log 18). While a LOAD runs from an accepted command (`LoadInv`, which runs keep) it
reads as busy, with unit 2 and status 0. -/
def Obligations.HostReadsResultRegisters : Prop :=
  ∀ s : State,
    (hostRead .busy s = 0#32 ↔ s.unit = .idle) ∧ (hostRead .busy s = 1#32 ↔ s.unit ≠ .idle) ∧
    (hostRead .unit s = 0#32 ↔ s.unit = .idle) ∧ (hostRead .unit s = 1#32 ↔ s.unit = .crc) ∧
    (hostRead .unit s = 2#32 ↔ s.unit = .load) ∧ (hostRead .unit s = 3#32 ↔ s.unit = .dump) ∧
    hostRead .crcOut s = s.crcOut ∧ hostRead .ldCount s = s.pcount ∧ hostRead .ldAddr s = s.paddr ∧
    (hostRead .ldErrch s).toNat = s.perrch.toNat ∧
    (hostRead .ldStatus s = 0#32 ↔ s.pstatus = .stNone) ∧ (hostRead .ldStatus s = 1#32 ↔ s.pstatus = .stOk) ∧
    (hostRead .ldStatus s = 2#32 ↔ s.pstatus = .stSyntax) ∧ (hostRead .ldStatus s = 3#32 ↔ s.pstatus = .stRange) ∧
    (hostRead .ldStatus s = 4#32 ↔ s.pstatus = .stTrunc) ∧ (hostRead .ldStatus s = 5#32 ↔ s.pstatus = .stUnknown) ∧
    (LoadInv s → s.unit = .load →
      hostRead .busy s = 1#32 ∧ hostRead .unit s = 2#32 ∧ hostRead .ldStatus s = 0#32)
end

