-- ==== Sys2Proof/Laws/Literals.lean ====
section
/-! SUPPORT. The values of the document's literals, for `simp` before arithmetic, and how the derived ones follow from the others. -/

namespace Sys2Proof

@[simp] theorem Config.readOnlyBytes_val : Config.readOnlyBytes = 2048 := rfl
@[simp] theorem Config.readWriteBytes_val : Config.readWriteBytes = 8192 := rfl
@[simp] theorem Config.wordBits_val : Config.wordBits = 32 := rfl
@[simp] theorem Config.byteBits_val : Config.byteBits = 8 := rfl
@[simp] theorem Config.digitBits_val : Config.digitBits = 4 := rfl
@[simp] theorem Config.lineBytes_val : Config.lineBytes = 16 := rfl
@[simp] theorem Config.addrDigits_val : Config.addrDigits = 6 := rfl
@[simp] theorem Config.byteDigits_val : Config.byteDigits = 2 := rfl
@[simp] theorem Config.lineChars_val : Config.lineChars = 56 := rfl
@[simp] theorem Config.colonPos_val : Config.colonPos = 6 := rfl
@[simp] theorem Config.firstBytePos_val : Config.firstBytePos = 7 := rfl
@[simp] theorem Config.byteChars_val : Config.byteChars = 3 := rfl
@[simp] theorem Config.eolPos_val : Config.eolPos = 55 := rfl
@[simp] theorem Config.addrLimit_val : Config.addrLimit = 0x1000000 := rfl

/-- A line is the address digits, the colon, the bytes and the line feed (R79). -/
theorem Config.lineChars_eq : Config.lineChars = Config.addrDigits + 1 + Config.byteChars * Config.lineBytes + 1 := rfl

/-- The digits of a byte hold its bits (R9). -/
theorem Config.byteBits_eq : Config.byteBits = Config.byteDigits * Config.digitBits := rfl

@[simp] theorem Config.capacity_readOnly : Config.capacity .readOnly = 2048 := rfl
@[simp] theorem Config.capacity_readWrite : Config.capacity .readWrite = 8192 := rfl

end Sys2Proof
end

