-- ==== Sys2Proof/Laws/Crc.lean ====
section
/-! SUPPORT. The laws of the CRC function and of the image's prefixes. -/

namespace Sys2Proof.Machine

open Sys2Proof.Safety

@[simp] theorem crcBytes_nil (c : Word) : crcBytes c [] = c := rfl

@[simp] theorem crcBytes_cons (c : Word) (b : Byte) (bs : List Byte) : crcBytes c (b :: bs) = crcBytes (crcByte c b) bs := rfl

theorem crcBytes_append (c : Word) (a b : List Byte) : crcBytes c (a ++ b) = crcBytes (crcBytes c a) b := by simp [crcBytes]

/-- The document's parameters: no reflection and no final exclusive OR (R8). -/
theorem crcResult_eq (c : Word) : crcResult c = c := by simp [crcResult, Config.crcRefOut, Config.crcXorOut]

theorem crcInByte_eq (b : Byte) : crcInByte b = b := by simp [crcInByte, Config.crcRefIn]

@[simp] theorem lenBytes_zero : lenBytes 0#32 = [] := rfl

/-- One turn of the length loop (R182). -/
theorem lenBytes_of_ne {n : Word} (h : n ≠ 0#32) : lenBytes n = n.setWidth 8 :: lenBytes (n >>> 8) := by
  have short (m : Word) (hm : m >>> 8 >>> 8 >>> 8 = 0#32) : lenBytesUpTo 4 m = lenBytesUpTo 3 m := by
    simp only [lenBytesUpTo, Config.byteBits_val, hm, if_true]; rfl
  have hz : n >>> 8 >>> 8 >>> 8 >>> 8 = 0#32 := by
    apply BitVec.eq_of_toNat_eq
    have := n.isLt
    simp only [BitVec.toNat_ushiftRight, Nat.shiftRight_eq_div_pow, BitVec.toNat_ofNat]
    omega
  show lenBytesUpTo 4 n = _ :: lenBytesUpTo 4 (n >>> 8)
  rw [short _ hz, lenBytesUpTo, if_neg h, Config.byteBits_val]

/-- A prefix of the image depends on the image alone. -/
theorem imgPrefix_congr {s t : State} (h : t.img = s.img) (n : Nat) : imgPrefix t n = imgPrefix s n := by
  have : t.imgByte = s.imgByte := funext fun i => by simp [State.imgByte, h]
  simp [imgPrefix, this]

theorem imgPrefix_succ (s : State) (n : Nat) : imgPrefix s (n + 1) = imgPrefix s n ++ [s.imgByte n] := by
  simp [imgPrefix, List.range_succ]

theorem imgPrefix_length (s : State) (n : Nat) : (imgPrefix s n).length = n := by simp [imgPrefix]

end Sys2Proof.Machine
end

