-- ==== Sys2Proof/Laws/Memory.lean ====
section
/-! SUPPORT. The laws of the image as a list: a read after a write, and that a write keeps the canonical form. -/

namespace Sys2Proof.Machine

theorem Memory.read_write_same (m : Memory) (i : Nat) (b : Byte) : (m.write i b).read i = some b := by
  induction m with
  | nil => simp [Memory.write, Memory.read]
  | cons c rest ih =>
    obtain ⟨k, v⟩ := c
    simp only [Memory.write]
    split
    · simp [Memory.read]
    · split
      · simp [Memory.read]
      · rename_i h
        simp [Memory.read, Ne.symm h, ih]

theorem Memory.read_write_other (m : Memory) {i j : Nat} (b : Byte) (h : j ≠ i) : (m.write i b).read j = m.read j := by
  induction m with
  | nil => simp [Memory.write, Memory.read, h.symm]
  | cons c rest ih =>
    obtain ⟨k, v⟩ := c
    simp only [Memory.write]
    split
    · simp [Memory.read, h.symm]
    · split
      · rename_i hk
        subst hk
        simp [Memory.read, h.symm]
      · simp [Memory.read, ih]

theorem Memory.mem_write {m : Memory} {i : Nat} {b : Byte} {c : Host.Cell} (h : c ∈ m.write i b) : c = (i, b) ∨ c ∈ m := by
  induction m with
  | nil => simpa [Memory.write] using h
  | cons d rest ih =>
    obtain ⟨k, v⟩ := d
    simp only [Memory.write] at h
    split at h
    · simpa using h
    · split at h
      · rcases List.mem_cons.mp h with h | h
        · exact .inl h
        · exact .inr (List.mem_cons_of_mem _ h)
      · rcases List.mem_cons.mp h with h | h
        · exact .inr (h ▸ List.mem_cons_self)
        · exact (ih h).imp id (List.mem_cons_of_mem _)

/-- A write keeps the canonical form. -/
theorem Memory.write_wf {m : Memory} (i : Nat) (b : Byte) (h : m.wf) : (m.write i b).wf := by
  induction m with
  | nil => simp [Memory.write]
  | cons d rest ih =>
    obtain ⟨k, v⟩ := d
    obtain ⟨hk, hrest⟩ := List.pairwise_cons.mp h
    simp only [Memory.write]
    split
    · rename_i hik
      refine List.pairwise_cons.mpr ⟨fun c hc => ?_, h⟩
      rcases List.mem_cons.mp hc with rfl | hc
      · exact hik
      · exact Nat.lt_trans hik (hk c hc)
    · split
      · rename_i hik
        exact List.pairwise_cons.mpr ⟨fun c hc => hik ▸ hk c hc, hrest⟩
      · refine List.pairwise_cons.mpr ⟨fun c hc => ?_, ih hrest⟩
        rcases Memory.mem_write hc with rfl | hc
        · show k < i
          omega
        · exact hk c hc

theorem Memory.read_of_lt {m : Memory} {i : Nat} (h : ∀ c ∈ m, i < c.1) : m.read i = none := by
  induction m with
  | nil => rfl
  | cons d rest ih =>
    obtain ⟨k, v⟩ := d
    have hk : i < k := h (k, v) List.mem_cons_self
    simp [Memory.read, Nat.ne_of_gt hk, ih (fun c hc => h c (List.mem_cons_of_mem _ hc))]

/-- Two images in canonical form that read the same everywhere are the same list. -/
theorem Memory.eq_of_read_eq : ∀ {m n : Memory}, m.wf → n.wf → (∀ i, m.read i = n.read i) → m = n
  | [], [], _, _, _ => rfl
  | [], (k, v) :: _, _, _, h => by simpa [Memory.read] using h k
  | (k, v) :: _, [], _, _, h => by simpa [Memory.read] using h k
  | (k, v) :: m, (l, w) :: n, hm, hn, h => by
    obtain ⟨hk, hm'⟩ := List.pairwise_cons.mp hm
    obtain ⟨hl, hn'⟩ := List.pairwise_cons.mp hn
    have kl : k = l := by
      rcases Nat.lt_trichotomy k l with hlt | heq | hgt
      · have := h k
        rw [Memory.read_of_lt (m := (l, w) :: n) (by
          intro c hc
          rcases List.mem_cons.mp hc with rfl | hc
          · exact hlt
          · exact Nat.lt_trans hlt (hl c hc))] at this
        simp [Memory.read] at this
      · exact heq
      · have := h l
        rw [Memory.read_of_lt (m := (k, v) :: m) (by
          intro c hc
          rcases List.mem_cons.mp hc with rfl | hc
          · exact hgt
          · exact Nat.lt_trans hgt (hk c hc))] at this
        simp [Memory.read] at this
    subst kl
    have vw : v = w := by simpa [Memory.read] using h k
    subst vw
    have rest : m = n := Memory.eq_of_read_eq hm' hn' (fun i => by
      by_cases hi : k = i
      · subst hi
        rw [Memory.read_of_lt hk, Memory.read_of_lt hl]
      · simpa [Memory.read, hi] using h i)
    rw [rest]

/-- The image after reset lists nothing, so it has the canonical form. -/
theorem reset_img_wf : State.reset.img.wf := .nil

end Sys2Proof.Machine
end

