-- ==== Sys2Proof/Laws/State.lean ====
section
/-! SUPPORT. One lemma per field of State per shared update, so that no proof unfolds a record update. -/

namespace Sys2Proof.Machine

/-! ## setSeen -/

@[simp] theorem setSeen_img (s : State) : (setSeen s).img = s.img := rfl
@[simp] theorem setSeen_unit (s : State) : (setSeen s).unit = s.unit := rfl
@[simp] theorem setSeen_argA (s : State) : (setSeen s).argA = s.argA := rfl
@[simp] theorem setSeen_argB (s : State) : (setSeen s).argB = s.argB := rfl
@[simp] theorem setSeen_pstate (s : State) : (setSeen s).pstate = s.pstate := rfl
@[simp] theorem setSeen_paddr (s : State) : (setSeen s).paddr = s.paddr := rfl
@[simp] theorem setSeen_pbyte (s : State) : (setSeen s).pbyte = s.pbyte := rfl
@[simp] theorem setSeen_pcount (s : State) : (setSeen s).pcount = s.pcount := rfl
@[simp] theorem setSeen_pseen (s : State) : (setSeen s).pseen = true := rfl
@[simp] theorem setSeen_pstart (s : State) : (setSeen s).pstart = s.pstart := rfl
@[simp] theorem setSeen_pend (s : State) : (setSeen s).pend = s.pend := rfl
@[simp] theorem setSeen_pstatus (s : State) : (setSeen s).pstatus = s.pstatus := rfl
@[simp] theorem setSeen_perrch (s : State) : (setSeen s).perrch = s.perrch := rfl
@[simp] theorem setSeen_sstart (s : State) : (setSeen s).sstart = s.sstart := rfl
@[simp] theorem setSeen_send (s : State) : (setSeen s).send = s.send := rfl
@[simp] theorem setSeen_sline (s : State) : (setSeen s).sline = s.sline := rfl
@[simp] theorem setSeen_spos (s : State) : (setSeen s).spos = s.spos := rfl
@[simp] theorem setSeen_sbyte (s : State) : (setSeen s).sbyte = s.sbyte := rfl
@[simp] theorem setSeen_crc (s : State) : (setSeen s).crc = s.crc := rfl
@[simp] theorem setSeen_cidx (s : State) : (setSeen s).cidx = s.cidx := rfl
@[simp] theorem setSeen_crem (s : State) : (setSeen s).crem = s.crem := rfl
@[simp] theorem setSeen_clen (s : State) : (setSeen s).clen = s.clen := rfl
@[simp] theorem setSeen_cphase (s : State) : (setSeen s).cphase = s.cphase := rfl
@[simp] theorem setSeen_crcOut (s : State) : (setSeen s).crcOut = s.crcOut := rfl
@[simp] theorem setSeen_variant (s : State) : (setSeen s).variant = s.variant := rfl
@[simp] theorem setSeen_host (s : State) : (setSeen s).host = s.host := rfl
@[simp] theorem setSeen_input (s : State) : (setSeen s).input = s.input := rfl
@[simp] theorem setSeen_inputEnded (s : State) : (setSeen s).inputEnded = s.inputEnded := rfl
@[simp] theorem setSeen_output (s : State) : (setSeen s).output = s.output := rfl
@[simp] theorem setSeen_sinkRoom (s : State) : (setSeen s).sinkRoom = s.sinkRoom := rfl

/-! ## clearSeen -/

@[simp] theorem clearSeen_img (s : State) : (clearSeen s).img = s.img := rfl
@[simp] theorem clearSeen_unit (s : State) : (clearSeen s).unit = s.unit := rfl
@[simp] theorem clearSeen_argA (s : State) : (clearSeen s).argA = s.argA := rfl
@[simp] theorem clearSeen_argB (s : State) : (clearSeen s).argB = s.argB := rfl
@[simp] theorem clearSeen_pstate (s : State) : (clearSeen s).pstate = s.pstate := rfl
@[simp] theorem clearSeen_paddr (s : State) : (clearSeen s).paddr = s.paddr := rfl
@[simp] theorem clearSeen_pbyte (s : State) : (clearSeen s).pbyte = s.pbyte := rfl
@[simp] theorem clearSeen_pcount (s : State) : (clearSeen s).pcount = s.pcount := rfl
@[simp] theorem clearSeen_pseen (s : State) : (clearSeen s).pseen = false := rfl
@[simp] theorem clearSeen_pstart (s : State) : (clearSeen s).pstart = s.pstart := rfl
@[simp] theorem clearSeen_pend (s : State) : (clearSeen s).pend = s.pend := rfl
@[simp] theorem clearSeen_pstatus (s : State) : (clearSeen s).pstatus = s.pstatus := rfl
@[simp] theorem clearSeen_perrch (s : State) : (clearSeen s).perrch = s.perrch := rfl
@[simp] theorem clearSeen_sstart (s : State) : (clearSeen s).sstart = s.sstart := rfl
@[simp] theorem clearSeen_send (s : State) : (clearSeen s).send = s.send := rfl
@[simp] theorem clearSeen_sline (s : State) : (clearSeen s).sline = s.sline := rfl
@[simp] theorem clearSeen_spos (s : State) : (clearSeen s).spos = s.spos := rfl
@[simp] theorem clearSeen_sbyte (s : State) : (clearSeen s).sbyte = s.sbyte := rfl
@[simp] theorem clearSeen_crc (s : State) : (clearSeen s).crc = s.crc := rfl
@[simp] theorem clearSeen_cidx (s : State) : (clearSeen s).cidx = s.cidx := rfl
@[simp] theorem clearSeen_crem (s : State) : (clearSeen s).crem = s.crem := rfl
@[simp] theorem clearSeen_clen (s : State) : (clearSeen s).clen = s.clen := rfl
@[simp] theorem clearSeen_cphase (s : State) : (clearSeen s).cphase = s.cphase := rfl
@[simp] theorem clearSeen_crcOut (s : State) : (clearSeen s).crcOut = s.crcOut := rfl
@[simp] theorem clearSeen_variant (s : State) : (clearSeen s).variant = s.variant := rfl
@[simp] theorem clearSeen_host (s : State) : (clearSeen s).host = s.host := rfl
@[simp] theorem clearSeen_input (s : State) : (clearSeen s).input = s.input := rfl
@[simp] theorem clearSeen_inputEnded (s : State) : (clearSeen s).inputEnded = s.inputEnded := rfl
@[simp] theorem clearSeen_output (s : State) : (clearSeen s).output = s.output := rfl
@[simp] theorem clearSeen_sinkRoom (s : State) : (clearSeen s).sinkRoom = s.sinkRoom := rfl

/-! ## finish -/

@[simp] theorem finish_img (s : State) : (finish s).img = s.img := rfl
@[simp] theorem finish_unit (s : State) : (finish s).unit = .idle := rfl
@[simp] theorem finish_argA (s : State) : (finish s).argA = s.argA := rfl
@[simp] theorem finish_argB (s : State) : (finish s).argB = s.argB := rfl
@[simp] theorem finish_pstate (s : State) : (finish s).pstate = s.pstate := rfl
@[simp] theorem finish_paddr (s : State) : (finish s).paddr = s.paddr := rfl
@[simp] theorem finish_pbyte (s : State) : (finish s).pbyte = s.pbyte := rfl
@[simp] theorem finish_pcount (s : State) : (finish s).pcount = s.pcount := rfl
@[simp] theorem finish_pseen (s : State) : (finish s).pseen = s.pseen := rfl
@[simp] theorem finish_pstart (s : State) : (finish s).pstart = s.pstart := rfl
@[simp] theorem finish_pend (s : State) : (finish s).pend = s.pend := rfl
@[simp] theorem finish_pstatus (s : State) : (finish s).pstatus = s.pstatus := rfl
@[simp] theorem finish_perrch (s : State) : (finish s).perrch = s.perrch := rfl
@[simp] theorem finish_sstart (s : State) : (finish s).sstart = s.sstart := rfl
@[simp] theorem finish_send (s : State) : (finish s).send = s.send := rfl
@[simp] theorem finish_sline (s : State) : (finish s).sline = s.sline := rfl
@[simp] theorem finish_spos (s : State) : (finish s).spos = s.spos := rfl
@[simp] theorem finish_sbyte (s : State) : (finish s).sbyte = s.sbyte := rfl
@[simp] theorem finish_crc (s : State) : (finish s).crc = s.crc := rfl
@[simp] theorem finish_cidx (s : State) : (finish s).cidx = s.cidx := rfl
@[simp] theorem finish_crem (s : State) : (finish s).crem = s.crem := rfl
@[simp] theorem finish_clen (s : State) : (finish s).clen = s.clen := rfl
@[simp] theorem finish_cphase (s : State) : (finish s).cphase = s.cphase := rfl
@[simp] theorem finish_crcOut (s : State) : (finish s).crcOut = s.crcOut := rfl
@[simp] theorem finish_variant (s : State) : (finish s).variant = s.variant := rfl
@[simp] theorem finish_host (s : State) : (finish s).host = s.host := rfl
@[simp] theorem finish_input (s : State) : (finish s).input = s.input := rfl
@[simp] theorem finish_inputEnded (s : State) : (finish s).inputEnded = s.inputEnded := rfl
@[simp] theorem finish_output (s : State) : (finish s).output = s.output := rfl
@[simp] theorem finish_sinkRoom (s : State) : (finish s).sinkRoom = s.sinkRoom := rfl

/-! ## charPut -/

@[simp] theorem charPut_img (c : Byte) (s : State) : (charPut c s).img = s.img := rfl
@[simp] theorem charPut_unit (c : Byte) (s : State) : (charPut c s).unit = s.unit := rfl
@[simp] theorem charPut_argA (c : Byte) (s : State) : (charPut c s).argA = s.argA := rfl
@[simp] theorem charPut_argB (c : Byte) (s : State) : (charPut c s).argB = s.argB := rfl
@[simp] theorem charPut_pstate (c : Byte) (s : State) : (charPut c s).pstate = s.pstate := rfl
@[simp] theorem charPut_paddr (c : Byte) (s : State) : (charPut c s).paddr = s.paddr := rfl
@[simp] theorem charPut_pbyte (c : Byte) (s : State) : (charPut c s).pbyte = s.pbyte := rfl
@[simp] theorem charPut_pcount (c : Byte) (s : State) : (charPut c s).pcount = s.pcount := rfl
@[simp] theorem charPut_pseen (c : Byte) (s : State) : (charPut c s).pseen = s.pseen := rfl
@[simp] theorem charPut_pstart (c : Byte) (s : State) : (charPut c s).pstart = s.pstart := rfl
@[simp] theorem charPut_pend (c : Byte) (s : State) : (charPut c s).pend = s.pend := rfl
@[simp] theorem charPut_pstatus (c : Byte) (s : State) : (charPut c s).pstatus = s.pstatus := rfl
@[simp] theorem charPut_perrch (c : Byte) (s : State) : (charPut c s).perrch = s.perrch := rfl
@[simp] theorem charPut_sstart (c : Byte) (s : State) : (charPut c s).sstart = s.sstart := rfl
@[simp] theorem charPut_send (c : Byte) (s : State) : (charPut c s).send = s.send := rfl
@[simp] theorem charPut_sline (c : Byte) (s : State) : (charPut c s).sline = s.sline := rfl
@[simp] theorem charPut_spos (c : Byte) (s : State) : (charPut c s).spos = s.spos := rfl
@[simp] theorem charPut_sbyte (c : Byte) (s : State) : (charPut c s).sbyte = s.sbyte := rfl
@[simp] theorem charPut_crc (c : Byte) (s : State) : (charPut c s).crc = s.crc := rfl
@[simp] theorem charPut_cidx (c : Byte) (s : State) : (charPut c s).cidx = s.cidx := rfl
@[simp] theorem charPut_crem (c : Byte) (s : State) : (charPut c s).crem = s.crem := rfl
@[simp] theorem charPut_clen (c : Byte) (s : State) : (charPut c s).clen = s.clen := rfl
@[simp] theorem charPut_cphase (c : Byte) (s : State) : (charPut c s).cphase = s.cphase := rfl
@[simp] theorem charPut_crcOut (c : Byte) (s : State) : (charPut c s).crcOut = s.crcOut := rfl
@[simp] theorem charPut_variant (c : Byte) (s : State) : (charPut c s).variant = s.variant := rfl
@[simp] theorem charPut_host (c : Byte) (s : State) : (charPut c s).host = s.host := rfl
@[simp] theorem charPut_input (c : Byte) (s : State) : (charPut c s).input = s.input := rfl
@[simp] theorem charPut_inputEnded (c : Byte) (s : State) : (charPut c s).inputEnded = s.inputEnded := rfl
@[simp] theorem charPut_output (c : Byte) (s : State) : (charPut c s).output = s.output ++ [c] := rfl
@[simp] theorem charPut_sinkRoom (c : Byte) (s : State) : (charPut c s).sinkRoom = s.sinkRoom.map (fun n => n - 1) := rfl

/-! ## startCrc -/

@[simp] theorem startCrc_img (len : Word) (s : State) : (startCrc len s).img = s.img := rfl
@[simp] theorem startCrc_unit (len : Word) (s : State) : (startCrc len s).unit = .crc := rfl
@[simp] theorem startCrc_argA (len : Word) (s : State) : (startCrc len s).argA = s.argA := rfl
@[simp] theorem startCrc_argB (len : Word) (s : State) : (startCrc len s).argB = s.argB := rfl
@[simp] theorem startCrc_pstate (len : Word) (s : State) : (startCrc len s).pstate = s.pstate := rfl
@[simp] theorem startCrc_paddr (len : Word) (s : State) : (startCrc len s).paddr = s.paddr := rfl
@[simp] theorem startCrc_pbyte (len : Word) (s : State) : (startCrc len s).pbyte = s.pbyte := rfl
@[simp] theorem startCrc_pcount (len : Word) (s : State) : (startCrc len s).pcount = s.pcount := rfl
@[simp] theorem startCrc_pseen (len : Word) (s : State) : (startCrc len s).pseen = s.pseen := rfl
@[simp] theorem startCrc_pstart (len : Word) (s : State) : (startCrc len s).pstart = s.pstart := rfl
@[simp] theorem startCrc_pend (len : Word) (s : State) : (startCrc len s).pend = s.pend := rfl
@[simp] theorem startCrc_pstatus (len : Word) (s : State) : (startCrc len s).pstatus = s.pstatus := rfl
@[simp] theorem startCrc_perrch (len : Word) (s : State) : (startCrc len s).perrch = s.perrch := rfl
@[simp] theorem startCrc_sstart (len : Word) (s : State) : (startCrc len s).sstart = s.sstart := rfl
@[simp] theorem startCrc_send (len : Word) (s : State) : (startCrc len s).send = s.send := rfl
@[simp] theorem startCrc_sline (len : Word) (s : State) : (startCrc len s).sline = s.sline := rfl
@[simp] theorem startCrc_spos (len : Word) (s : State) : (startCrc len s).spos = s.spos := rfl
@[simp] theorem startCrc_sbyte (len : Word) (s : State) : (startCrc len s).sbyte = s.sbyte := rfl
@[simp] theorem startCrc_crc (len : Word) (s : State) : (startCrc len s).crc = Config.crcInit := rfl
@[simp] theorem startCrc_cidx (len : Word) (s : State) : (startCrc len s).cidx = 0#32 := rfl
@[simp] theorem startCrc_crem (len : Word) (s : State) : (startCrc len s).crem = len := rfl
@[simp] theorem startCrc_clen (len : Word) (s : State) : (startCrc len s).clen = len := rfl
@[simp] theorem startCrc_cphase (len : Word) (s : State) : (startCrc len s).cphase = if len = 0#32 then .cLen else .cData := rfl
@[simp] theorem startCrc_crcOut (len : Word) (s : State) : (startCrc len s).crcOut = s.crcOut := rfl
@[simp] theorem startCrc_variant (len : Word) (s : State) : (startCrc len s).variant = s.variant := rfl
@[simp] theorem startCrc_host (len : Word) (s : State) : (startCrc len s).host = s.host := rfl
@[simp] theorem startCrc_input (len : Word) (s : State) : (startCrc len s).input = s.input := rfl
@[simp] theorem startCrc_inputEnded (len : Word) (s : State) : (startCrc len s).inputEnded = s.inputEnded := rfl
@[simp] theorem startCrc_output (len : Word) (s : State) : (startCrc len s).output = s.output := rfl
@[simp] theorem startCrc_sinkRoom (len : Word) (s : State) : (startCrc len s).sinkRoom = s.sinkRoom := rfl

/-! ## startLoad -/

@[simp] theorem startLoad_img (a b : Word) (s : State) : (startLoad a b s).img = s.img := rfl
@[simp] theorem startLoad_unit (a b : Word) (s : State) : (startLoad a b s).unit = .load := rfl
@[simp] theorem startLoad_argA (a b : Word) (s : State) : (startLoad a b s).argA = s.argA := rfl
@[simp] theorem startLoad_argB (a b : Word) (s : State) : (startLoad a b s).argB = s.argB := rfl
@[simp] theorem startLoad_pstate (a b : Word) (s : State) : (startLoad a b s).pstate = .address := rfl
@[simp] theorem startLoad_paddr (a b : Word) (s : State) : (startLoad a b s).paddr = 0#32 := rfl
@[simp] theorem startLoad_pbyte (a b : Word) (s : State) : (startLoad a b s).pbyte = 0#8 := rfl
@[simp] theorem startLoad_pcount (a b : Word) (s : State) : (startLoad a b s).pcount = 0#32 := rfl
@[simp] theorem startLoad_pseen (a b : Word) (s : State) : (startLoad a b s).pseen = false := rfl
@[simp] theorem startLoad_pstart (a b : Word) (s : State) : (startLoad a b s).pstart = a := rfl
@[simp] theorem startLoad_pend (a b : Word) (s : State) : (startLoad a b s).pend = b := rfl
@[simp] theorem startLoad_pstatus (a b : Word) (s : State) : (startLoad a b s).pstatus = .stNone := rfl
@[simp] theorem startLoad_perrch (a b : Word) (s : State) : (startLoad a b s).perrch = s.perrch := rfl
@[simp] theorem startLoad_sstart (a b : Word) (s : State) : (startLoad a b s).sstart = s.sstart := rfl
@[simp] theorem startLoad_send (a b : Word) (s : State) : (startLoad a b s).send = s.send := rfl
@[simp] theorem startLoad_sline (a b : Word) (s : State) : (startLoad a b s).sline = s.sline := rfl
@[simp] theorem startLoad_spos (a b : Word) (s : State) : (startLoad a b s).spos = s.spos := rfl
@[simp] theorem startLoad_sbyte (a b : Word) (s : State) : (startLoad a b s).sbyte = s.sbyte := rfl
@[simp] theorem startLoad_crc (a b : Word) (s : State) : (startLoad a b s).crc = s.crc := rfl
@[simp] theorem startLoad_cidx (a b : Word) (s : State) : (startLoad a b s).cidx = s.cidx := rfl
@[simp] theorem startLoad_crem (a b : Word) (s : State) : (startLoad a b s).crem = s.crem := rfl
@[simp] theorem startLoad_clen (a b : Word) (s : State) : (startLoad a b s).clen = s.clen := rfl
@[simp] theorem startLoad_cphase (a b : Word) (s : State) : (startLoad a b s).cphase = s.cphase := rfl
@[simp] theorem startLoad_crcOut (a b : Word) (s : State) : (startLoad a b s).crcOut = s.crcOut := rfl
@[simp] theorem startLoad_variant (a b : Word) (s : State) : (startLoad a b s).variant = s.variant := rfl
@[simp] theorem startLoad_host (a b : Word) (s : State) : (startLoad a b s).host = s.host := rfl
@[simp] theorem startLoad_input (a b : Word) (s : State) : (startLoad a b s).input = s.input := rfl
@[simp] theorem startLoad_inputEnded (a b : Word) (s : State) : (startLoad a b s).inputEnded = s.inputEnded := rfl
@[simp] theorem startLoad_output (a b : Word) (s : State) : (startLoad a b s).output = s.output := rfl
@[simp] theorem startLoad_sinkRoom (a b : Word) (s : State) : (startLoad a b s).sinkRoom = s.sinkRoom := rfl

/-! ## startDump -/

@[simp] theorem startDump_img (a b : Word) (s : State) : (startDump a b s).img = s.img := by
  unfold startDump; split <;> simp_all
@[simp] theorem startDump_unit (a b : Word) (s : State) : (startDump a b s).unit = if b ≤ a then .idle else .dump := by
  unfold startDump; split <;> simp_all
@[simp] theorem startDump_argA (a b : Word) (s : State) : (startDump a b s).argA = s.argA := by
  unfold startDump; split <;> simp_all
@[simp] theorem startDump_argB (a b : Word) (s : State) : (startDump a b s).argB = s.argB := by
  unfold startDump; split <;> simp_all
@[simp] theorem startDump_pstate (a b : Word) (s : State) : (startDump a b s).pstate = s.pstate := by
  unfold startDump; split <;> simp_all
@[simp] theorem startDump_paddr (a b : Word) (s : State) : (startDump a b s).paddr = s.paddr := by
  unfold startDump; split <;> simp_all
@[simp] theorem startDump_pbyte (a b : Word) (s : State) : (startDump a b s).pbyte = s.pbyte := by
  unfold startDump; split <;> simp_all
@[simp] theorem startDump_pcount (a b : Word) (s : State) : (startDump a b s).pcount = s.pcount := by
  unfold startDump; split <;> simp_all
@[simp] theorem startDump_pseen (a b : Word) (s : State) : (startDump a b s).pseen = s.pseen := by
  unfold startDump; split <;> simp_all
@[simp] theorem startDump_pstart (a b : Word) (s : State) : (startDump a b s).pstart = s.pstart := by
  unfold startDump; split <;> simp_all
@[simp] theorem startDump_pend (a b : Word) (s : State) : (startDump a b s).pend = s.pend := by
  unfold startDump; split <;> simp_all
@[simp] theorem startDump_pstatus (a b : Word) (s : State) : (startDump a b s).pstatus = s.pstatus := by
  unfold startDump; split <;> simp_all
@[simp] theorem startDump_perrch (a b : Word) (s : State) : (startDump a b s).perrch = s.perrch := by
  unfold startDump; split <;> simp_all
@[simp] theorem startDump_sstart (a b : Word) (s : State) : (startDump a b s).sstart = a := by
  unfold startDump; split <;> simp_all
@[simp] theorem startDump_send (a b : Word) (s : State) : (startDump a b s).send = b := by
  unfold startDump; split <;> simp_all
@[simp] theorem startDump_sline (a b : Word) (s : State) : (startDump a b s).sline = a := by
  unfold startDump; split <;> simp_all
@[simp] theorem startDump_spos (a b : Word) (s : State) : (startDump a b s).spos = 0 := by
  unfold startDump; split <;> simp_all
@[simp] theorem startDump_sbyte (a b : Word) (s : State) : (startDump a b s).sbyte = s.sbyte := by
  unfold startDump; split <;> simp_all
@[simp] theorem startDump_crc (a b : Word) (s : State) : (startDump a b s).crc = s.crc := by
  unfold startDump; split <;> simp_all
@[simp] theorem startDump_cidx (a b : Word) (s : State) : (startDump a b s).cidx = s.cidx := by
  unfold startDump; split <;> simp_all
@[simp] theorem startDump_crem (a b : Word) (s : State) : (startDump a b s).crem = s.crem := by
  unfold startDump; split <;> simp_all
@[simp] theorem startDump_clen (a b : Word) (s : State) : (startDump a b s).clen = s.clen := by
  unfold startDump; split <;> simp_all
@[simp] theorem startDump_cphase (a b : Word) (s : State) : (startDump a b s).cphase = s.cphase := by
  unfold startDump; split <;> simp_all
@[simp] theorem startDump_crcOut (a b : Word) (s : State) : (startDump a b s).crcOut = s.crcOut := by
  unfold startDump; split <;> simp_all
@[simp] theorem startDump_variant (a b : Word) (s : State) : (startDump a b s).variant = s.variant := by
  unfold startDump; split <;> simp_all
@[simp] theorem startDump_host (a b : Word) (s : State) : (startDump a b s).host = s.host := by
  unfold startDump; split <;> simp_all
@[simp] theorem startDump_input (a b : Word) (s : State) : (startDump a b s).input = s.input := by
  unfold startDump; split <;> simp_all
@[simp] theorem startDump_inputEnded (a b : Word) (s : State) : (startDump a b s).inputEnded = s.inputEnded := by
  unfold startDump; split <;> simp_all
@[simp] theorem startDump_output (a b : Word) (s : State) : (startDump a b s).output = s.output := by
  unfold startDump; split <;> simp_all
@[simp] theorem startDump_sinkRoom (a b : Word) (s : State) : (startDump a b s).sinkRoom = s.sinkRoom := by
  unfold startDump; split <;> simp_all

/-! ## raiseLoadError -/

@[simp] theorem raiseLoadError_img (e : LoadError) (s : State) : (raiseLoadError e s).img = s.img := by cases e <;> rfl
@[simp] theorem raiseLoadError_unit (e : LoadError) (s : State) : (raiseLoadError e s).unit = .idle := by cases e <;> rfl
@[simp] theorem raiseLoadError_argA (e : LoadError) (s : State) : (raiseLoadError e s).argA = s.argA := by cases e <;> rfl
@[simp] theorem raiseLoadError_argB (e : LoadError) (s : State) : (raiseLoadError e s).argB = s.argB := by cases e <;> rfl
@[simp] theorem raiseLoadError_pstate (e : LoadError) (s : State) : (raiseLoadError e s).pstate = s.pstate := by cases e <;> rfl
@[simp] theorem raiseLoadError_paddr (e : LoadError) (s : State) : (raiseLoadError e s).paddr = s.paddr := by cases e <;> rfl
@[simp] theorem raiseLoadError_pbyte (e : LoadError) (s : State) : (raiseLoadError e s).pbyte = s.pbyte := by cases e <;> rfl
@[simp] theorem raiseLoadError_pcount (e : LoadError) (s : State) : (raiseLoadError e s).pcount = s.pcount := by cases e <;> rfl
@[simp] theorem raiseLoadError_pseen (e : LoadError) (s : State) : (raiseLoadError e s).pseen = s.pseen := by cases e <;> rfl
@[simp] theorem raiseLoadError_pstart (e : LoadError) (s : State) : (raiseLoadError e s).pstart = s.pstart := by cases e <;> rfl
@[simp] theorem raiseLoadError_pend (e : LoadError) (s : State) : (raiseLoadError e s).pend = s.pend := by cases e <;> rfl
@[simp] theorem raiseLoadError_sstart (e : LoadError) (s : State) : (raiseLoadError e s).sstart = s.sstart := by cases e <;> rfl
@[simp] theorem raiseLoadError_send (e : LoadError) (s : State) : (raiseLoadError e s).send = s.send := by cases e <;> rfl
@[simp] theorem raiseLoadError_sline (e : LoadError) (s : State) : (raiseLoadError e s).sline = s.sline := by cases e <;> rfl
@[simp] theorem raiseLoadError_spos (e : LoadError) (s : State) : (raiseLoadError e s).spos = s.spos := by cases e <;> rfl
@[simp] theorem raiseLoadError_sbyte (e : LoadError) (s : State) : (raiseLoadError e s).sbyte = s.sbyte := by cases e <;> rfl
@[simp] theorem raiseLoadError_crc (e : LoadError) (s : State) : (raiseLoadError e s).crc = s.crc := by cases e <;> rfl
@[simp] theorem raiseLoadError_cidx (e : LoadError) (s : State) : (raiseLoadError e s).cidx = s.cidx := by cases e <;> rfl
@[simp] theorem raiseLoadError_crem (e : LoadError) (s : State) : (raiseLoadError e s).crem = s.crem := by cases e <;> rfl
@[simp] theorem raiseLoadError_clen (e : LoadError) (s : State) : (raiseLoadError e s).clen = s.clen := by cases e <;> rfl
@[simp] theorem raiseLoadError_cphase (e : LoadError) (s : State) : (raiseLoadError e s).cphase = s.cphase := by cases e <;> rfl
@[simp] theorem raiseLoadError_crcOut (e : LoadError) (s : State) : (raiseLoadError e s).crcOut = s.crcOut := by cases e <;> rfl
@[simp] theorem raiseLoadError_variant (e : LoadError) (s : State) : (raiseLoadError e s).variant = s.variant := by cases e <;> rfl
@[simp] theorem raiseLoadError_host (e : LoadError) (s : State) : (raiseLoadError e s).host = s.host := by cases e <;> rfl
@[simp] theorem raiseLoadError_input (e : LoadError) (s : State) : (raiseLoadError e s).input = s.input := by cases e <;> rfl
@[simp] theorem raiseLoadError_inputEnded (e : LoadError) (s : State) : (raiseLoadError e s).inputEnded = s.inputEnded := by cases e <;> rfl
@[simp] theorem raiseLoadError_output (e : LoadError) (s : State) : (raiseLoadError e s).output = s.output := by cases e <;> rfl
@[simp] theorem raiseLoadError_sinkRoom (e : LoadError) (s : State) : (raiseLoadError e s).sinkRoom = s.sinkRoom := by cases e <;> rfl
@[simp] theorem raiseLoadError_pstatus_ne (e : LoadError) (s : State) : (raiseLoadError e s).pstatus ≠ .stNone := by cases e <;> simp [raiseLoadError]

end Sys2Proof.Machine
end

