-- ==== Sys2Proof/Laws/Ops.lean ====
section
/-! SUPPORT. For each shared operation one lemma that says all it can answer, to be cited instead of unfolding it. -/

namespace Sys2Proof.Machine

/-! ## The image -/

theorem memRead_of_lt {i : Nat} {s : State} (h : i < s.capacity) : memRead i s = .ok (s.imgByte i) := by simp [memRead, h]

theorem memRead_ok_iff {i : Nat} {s : State} {b : Byte} : memRead i s = .ok b ↔ i < s.capacity ∧ b = s.imgByte i := by
  by_cases h : i < s.capacity
  · rw [memRead_of_lt h]; simp [h, eq_comm]
  · simp [memRead, h]

theorem memWrite_of_lt {i : Nat} {b : Byte} {s : State} (h : i < s.capacity) :
    memWrite i b s = .ok { s with img := s.img.write i b } := by simp [memWrite, h]

theorem memWrite_ok_iff {i : Nat} {b : Byte} {s t : State} :
    memWrite i b s = .ok t ↔ i < s.capacity ∧ t = { s with img := s.img.write i b } := by
  by_cases h : i < s.capacity
  · rw [memWrite_of_lt h]; simp [h, eq_comm]
  · simp [memWrite, h]

/-- The byte just written reads back. -/
theorem imgByte_write_same (s : State) (i : Nat) (b : Byte) : ({ s with img := s.img.write i b } : State).imgByte i = b := by
  simp [State.imgByte, Memory.read_write_same]

/-- A write leaves every other byte. -/
theorem imgByte_write_other (s : State) {i j : Nat} (b : Byte) (h : j ≠ i) :
    ({ s with img := s.img.write i b } : State).imgByte j = s.imgByte j := by
  simp [State.imgByte, Memory.read_write_other _ _ h]

theorem imgByte_congr {s t : State} (h : t.img = s.img) (i : Nat) : t.imgByte i = s.imgByte i := by simp [State.imgByte, h]

/-! ## The streams -/

/-- The sink is ready unless its room is used up. -/
theorem sinkReady_iff {s : State} : s.sinkReady = true ↔ s.sinkRoom ≠ some 0 := by simp [State.sinkReady]

/-- A symbol comes from the list, or is the sentinel of a source that has ended. -/
theorem symGet_some_iff {s t : State} {c : Sym} :
    symGet s = some (c, t) ↔
      (∃ rest, s.input = c :: rest ∧ t = { s with input := rest }) ∨
      (s.input = [] ∧ s.inputEnded = true ∧ c = eofSym 0#8 ∧ t = s) := by
  unfold symGet
  split
  · rename_i d rest h
    simp only [h, Option.some.injEq, Prod.mk.injEq, List.cons.injEq, reduceCtorEq, false_and, or_false]
    constructor
    · rintro ⟨rfl, rfl⟩; exact ⟨rest, ⟨rfl, rfl⟩, rfl⟩
    · rintro ⟨r, ⟨rfl, rfl⟩, rfl⟩; exact ⟨rfl, rfl⟩
  · rename_i h
    by_cases he : s.inputEnded = true
    · simp [h, he, eq_comm]
    · simp [h, he]

/-! ## Which unit steps -/

theorem whenIdle_next_iff {k : State → Result} {s t : State} : whenIdle k s = .next t ↔ s.unit = .idle ∧ k s = .next t := by
  unfold whenIdle; split <;> simp_all

theorem whenLoading_next_iff {k : State → Result} {s t : State} :
    whenLoading k s = .next t ↔ s.unit = .load ∧ k s = .next t := by
  unfold whenLoading; split <;> simp_all

theorem whenParser_next_iff {p : PState} {k : State → Result} {s t : State} :
    whenParser p k s = .next t ↔ (s.unit = .load ∧ s.pstate = p) ∧ k s = .next t := by
  unfold whenParser; split <;> simp_all

theorem whenSerializer_next_iff {pos : LinePos} {k : State → Result} {s t : State} :
    whenSerializer pos k s = .next t ↔
      (s.unit = .dump ∧ s.spos = pos) ∧ ((s.sinkRoom ≠ some 0 ∧ k s = .next t) ∨ (s.sinkRoom = some 0 ∧ t = s)) := by
  unfold whenSerializer
  split
  · rename_i h
    by_cases hr : s.sinkRoom = some 0
    · simp [State.sinkReady, h, hr, eq_comm (a := s)]
    · simp [State.sinkReady, h, hr]
  · rename_i h
    simp [h]

theorem whenCrc_next_iff {ph : CPhase} {k : State → Result} {s t : State} :
    whenCrc ph k s = .next t ↔ (s.unit = .crc ∧ s.cphase = ph) ∧ k s = .next t := by
  unfold whenCrc; split <;> simp_all

theorem whenIdle_of {k : State → Result} {s : State} (h : s.unit = .idle) : whenIdle k s = k s := by simp [whenIdle, h]

theorem whenLoading_of {k : State → Result} {s : State} (h : s.unit = .load) : whenLoading k s = k s := by simp [whenLoading, h]

theorem whenParser_of {p : PState} {k : State → Result} {s : State} (h : s.unit = .load) (hp : s.pstate = p) :
    whenParser p k s = k s := by simp [whenParser, h, hp]

theorem whenSerializer_of {pos : LinePos} {k : State → Result} {s : State} (h : s.unit = .dump) (hp : s.spos = pos)
    (hr : s.sinkRoom ≠ some 0) : whenSerializer pos k s = k s := by simp [whenSerializer, h, hp, State.sinkReady, hr]

theorem whenSerializer_waits {pos : LinePos} {k : State → Result} {s : State} (h : s.unit = .dump) (hp : s.spos = pos)
    (hr : s.sinkRoom = some 0) : whenSerializer pos k s = .next s := by simp [whenSerializer, h, hp, State.sinkReady, hr]

theorem whenCrc_of {ph : CPhase} {k : State → Result} {s : State} (h : s.unit = .crc) (hp : s.cphase = ph) :
    whenCrc ph k s = k s := by simp [whenCrc, h, hp]

/-! When a unit step is refused: its rule refuses nothing, so the selector decides. -/

theorem whenLoading_refused_iff {k : State → Result} {s : State} (hk : ∀ r, k s ≠ .refused r) :
    whenLoading k s = .refused .notEnabled ↔ s.unit ≠ .load := by unfold whenLoading; split <;> simp_all

theorem whenParser_refused_iff {p : PState} {k : State → Result} {s : State} (hk : ∀ r, k s ≠ .refused r) :
    whenParser p k s = .refused .notEnabled ↔ ¬ (s.unit = .load ∧ s.pstate = p) := by unfold whenParser; split <;> simp_all

theorem whenSerializer_refused_iff {pos : LinePos} {k : State → Result} {s : State} (hk : ∀ r, k s ≠ .refused r) :
    whenSerializer pos k s = .refused .notEnabled ↔ ¬ (s.unit = .dump ∧ s.spos = pos) := by
  unfold whenSerializer
  split
  · split <;> simp_all
  · simp_all

theorem whenCrc_refused_iff {ph : CPhase} {k : State → Result} {s : State} :
    whenCrc ph k s = .refused .notEnabled ↔ ¬ (s.unit = .crc ∧ s.cphase = ph) ∨ k s = .refused .notEnabled := by
  unfold whenCrc; split <;> simp_all

/-! ## Indices -/

/-- Inside a window the index is the difference of the numbers. -/
theorem windowIndex_of_le {a start : Word} (h : start ≤ a) : windowIndex a start = a.toNat - start.toNat := by
  simp only [windowIndex, BitVec.toNat_sub_of_le h]

/-! ## Bounds with the literals' values -/

theorem dumpValid_iff {cap : Nat} {start stop : Word} :
    dumpValid cap start stop ↔
      start.toNat ≤ stop.toNat ∧ stop.toNat - start.toNat ≤ cap ∧ start.toNat % 16 = 0 ∧ stop.toNat % 16 = 0 ∧
        stop.toNat ≤ 0x1000000 := Iff.rfl

theorem lastLine_iff {s : State} : s.lastLine ↔ s.send ≤ s.sline + 16#32 := Iff.rfl

/-! ## The capacity -/

theorem capacity_cases (s : State) : s.capacity = 2048 ∨ s.capacity = 8192 := by
  unfold State.capacity Config.capacity; cases s.variant <;> simp

theorem capacity_congr {s t : State} (h : t.variant = s.variant) : t.capacity = s.capacity := by simp [State.capacity, h]

end Sys2Proof.Machine
end

