-- ==== Sys2Proof/Laws/Steps.lean ====
section
/-! SUPPORT. For each rule of a unit, and for fetch and step, one lemma that says all it can answer. -/

namespace Sys2Proof.Machine

/-- A line terminator in ADDRESS is skipped or ends the load (R146). -/
theorem aLtStep_next_iff {s t : State} :
    aLtStep s = .next t ↔ (s.pseen = false ∧ t = s) ∨ (s.pseen = true ∧ t = finish { s with pstatus := .stOk }) := by
  unfold aLtStep; cases h : s.pseen <;> simp [eq_comm]

/-- The second digit stores inside the window and raises the range error outside it (R153). -/
theorem lHexStep_next_iff {d : Nibble} {s t : State} :
    lHexStep d s = .next t ↔
      (s.inWindow ∧ windowIndex s.paddr s.pstart < s.capacity ∧
        t = { s with
          img := s.img.write (windowIndex s.paddr s.pstart) (withLowNibble s.pbyte d), pbyte := withLowNibble s.pbyte d,
          paddr := s.paddr + 1#32, pcount := s.pcount + 1#32, pstate := .byteHighNibble }) ∨
      (¬ s.inWindow ∧ t = raiseLoadError .range { s with pbyte := withLowNibble s.pbyte d }) := by
  unfold lHexStep
  by_cases hw : s.inWindow
  · by_cases hc : windowIndex s.paddr s.pstart < s.capacity
    · rw [if_pos hw, memWrite_of_lt (by simpa [State.capacity] using hc)]
      constructor
      · intro h; cases h; exact .inl ⟨hw, hc, rfl⟩
      · rintro (⟨_, _, rfl⟩ | ⟨hn, _⟩)
        · rfl
        · exact absurd hw hn
    · have hc' : ¬ windowIndex s.paddr s.pstart < ({ s with pbyte := withLowNibble s.pbyte d } : State).capacity := hc
      rw [if_pos hw]
      simp [memWrite, hc', hc, hw]
  · rw [if_neg hw]
    simp [errorStep, hw, eq_comm]

/-- The step that latches a byte reads it inside the image (R128). -/
theorem latchStep_next_iff {i : ByteIdx} {s t : State} :
    latchStep i s = .next t ↔
      windowIndex (s.sline + BitVec.ofNat 32 i.val) s.sstart < s.capacity ∧
        t = { charPut chSp s with
          sbyte := s.imgByte (windowIndex (s.sline + BitVec.ofNat 32 i.val) s.sstart), spos := posHi i } := by
  unfold latchStep
  by_cases h : windowIndex (s.sline + BitVec.ofNat 32 i.val) s.sstart < s.capacity
  · rw [memRead_of_lt h]; simp [h, eq_comm]
  · simp [memRead, h]

/-- The line feed ends the DUMP or starts the next line (R131). -/
theorem endLineStep_next_iff {s t : State} :
    endLineStep s = .next t ↔
      (s.lastLine ∧ t = finish (charPut chLt s)) ∨
      (¬ s.lastLine ∧ t = { charPut chLt s with sline := s.sline + 16#32, spos := 0 }) := by
  unfold endLineStep
  by_cases h : s.lastLine
  · rw [if_pos h]
    exact ⟨fun hk => .inl ⟨h, by cases hk; rfl⟩, by rintro (⟨_, rfl⟩ | ⟨hn, _⟩); exacts [rfl, absurd h hn]⟩
  · rw [if_neg h]
    exact ⟨fun hk => .inr ⟨h, by cases hk; rfl⟩, by rintro (⟨hy, _⟩ | ⟨_, rfl⟩); exacts [absurd hy h, rfl]⟩

/-- A data step reads its byte inside the image (R185). -/
theorem absorbStep_next_iff {s t : State} :
    absorbStep s = .next t ↔
      s.cidx.toNat < s.capacity ∧
        t = { s with
          crc := crcByte s.crc (s.imgByte s.cidx.toNat), cidx := s.cidx + 1#32,
          cphase := if s.cidx + 1#32 = s.clen then .cLen else s.cphase } := by
  unfold absorbStep
  by_cases h : s.cidx.toNat < s.capacity
  · rw [memRead_of_lt h]; simp [h, eq_comm]
  · simp [memRead, h]

/-! The rules refuse nothing: they answer a next state or a fault. -/

theorem errorStep_ne_refused (e : LoadError) (s : State) (r : Refusal) : errorStep e s ≠ .refused r := nofun

theorem aLtStep_ne_refused (s : State) (r : Refusal) : aLtStep s ≠ .refused r := by unfold aLtStep; split <;> nofun

theorem lHexStep_ne_refused (d : Nibble) (s : State) (r : Refusal) : lHexStep d s ≠ .refused r := by
  unfold lHexStep
  simp only
  split
  · split <;> nofun
  · nofun

theorem latchStep_ne_refused (i : ByteIdx) (s : State) (r : Refusal) : latchStep i s ≠ .refused r := by
  unfold latchStep; split <;> nofun

theorem endLineStep_ne_refused (s : State) (r : Refusal) : endLineStep s ≠ .refused r := by unfold endLineStep; split <;> nofun

theorem absorbStep_ne_refused (s : State) (r : Refusal) : absorbStep s ≠ .refused r := by unfold absorbStep; split <;> nofun

/-! ## Fetch and step -/

theorem fetch_idle {s : State} (h : s.unit = .idle) : fetch s = fetchHost s := by simp [fetch, h]

theorem fetch_load {s : State} (h : s.unit = .load) : fetch s = fetchSym s := by simp [fetch, h]

theorem fetch_dump {s : State} (h : s.unit = .dump) : fetch s = .item (.spos (sposCode s.spos)) s := by simp [fetch, h]

theorem fetch_crc {s : State} (h : s.unit = .crc) : fetch s = .item (.cphase s.cphase.code (s.crem == 0#32)) s := by
  simp [fetch, h]

theorem unit_cases (s : State) : s.unit = .idle ∨ s.unit = .load ∨ s.unit = .dump ∨ s.unit = .crc := by
  cases s.unit <;> simp

/-- What the idle machine takes from the host as an item is a command. -/
theorem fetchHost_item_iff {s t : State} {x : Item} :
    fetchHost s = .item x t ↔ ∃ code rest, s.host = .cmd code :: rest ∧ x = .cmd code ∧ t = { s with host := rest } := by
  unfold fetchHost
  split <;> rename_i h
  · simp [h]
  · simp [h]
  · simp [h]
  · constructor
    · intro hx; cases hx; exact ⟨_, _, h, rfl, rfl⟩
    · rintro ⟨_, _, h', rfl, rfl⟩
      rw [h] at h'; cases h'; rfl

/-- A host write of an operand register touches that register and the host's list only. -/
theorem fetchHost_written_iff {s t : State} :
    fetchHost s = .written t ↔
      ∃ v rest, (s.host = .argA v :: rest ∧ t = { s with argA := v, host := rest }) ∨
        (s.host = .argB v :: rest ∧ t = { s with argB := v, host := rest }) := by
  unfold fetchHost
  split <;> rename_i h
  · simp [h]
  · constructor
    · intro hx; cases hx; exact ⟨_, _, .inl ⟨h, rfl⟩⟩
    · rintro ⟨_, _, ⟨h', rfl⟩ | ⟨h', _⟩⟩ <;> rw [h] at h' <;> cases h'
      rfl
  · constructor
    · intro hx; cases hx; exact ⟨_, _, .inr ⟨h, rfl⟩⟩
    · rintro ⟨_, _, ⟨h', _⟩ | ⟨h', rfl⟩⟩ <;> rw [h] at h' <;> cases h'
      rfl
  · simp [h]

/-- What a LOAD takes from the source is a symbol under the parser's state. -/
theorem fetchSym_item_iff {s t : State} {x : Item} :
    fetchSym s = .item x t ↔ ∃ c, symGet s = some (c, t) ∧ x = .sym s.pstate c := by
  unfold fetchSym
  cases hg : symGet s with
  | none => simp
  | some r =>
    obtain ⟨c, s'⟩ := r
    constructor
    · intro h; cases h; exact ⟨c, rfl, rfl⟩
    · rintro ⟨_, h, rfl⟩; cases h; rfl

/-- All the ways an item is fetched. -/
theorem fetch_item_iff {s t : State} {x : Item} :
    fetch s = .item x t ↔
      (s.unit = .idle ∧ ∃ code rest, s.host = .cmd code :: rest ∧ x = .cmd code ∧ t = { s with host := rest }) ∨
      (s.unit = .load ∧ ∃ c, symGet s = some (c, t) ∧ x = .sym s.pstate c) ∨
      (s.unit = .dump ∧ x = .spos (sposCode s.spos) ∧ t = s) ∨
      (s.unit = .crc ∧ x = .cphase s.cphase.code (s.crem == 0#32) ∧ t = s) := by
  rcases unit_cases s with h | h | h | h
  · rw [fetch_idle h, fetchHost_item_iff]
    simp only [h, reduceCtorEq, false_and, or_false, true_and]
  · rw [fetch_load h, fetchSym_item_iff]
    simp only [h, reduceCtorEq, false_and, or_false, false_or, true_and]
  · rw [fetch_dump h]
    simp only [h, reduceCtorEq, false_and, or_false, false_or, true_and, Fetched.item.injEq, eq_comm]
  · rw [fetch_crc h]
    simp only [h, reduceCtorEq, false_and, false_or, true_and, Fetched.item.injEq, eq_comm]

/-- All the ways an operand write is fetched. -/
theorem fetch_written_iff {s t : State} :
    fetch s = .written t ↔
      s.unit = .idle ∧ ∃ v rest,
        (s.host = .argA v :: rest ∧ t = { s with argA := v, host := rest }) ∨
        (s.host = .argB v :: rest ∧ t = { s with argB := v, host := rest }) := by
  rcases unit_cases s with h | h | h | h
  · rw [fetch_idle h, fetchHost_written_iff]; simp only [h, true_and]
  · rw [fetch_load h]
    simp only [h, reduceCtorEq, false_and, iff_false]
    unfold fetchSym; split <;> simp
  · rw [fetch_dump h]; simp [h]
  · rw [fetch_crc h]; simp [h]

/-- All the ways a step answers a next state. -/
theorem step_next_iff {s t : State} :
    step s = .next t ↔
      (fetch s = .waiting ∧ t = s) ∨ fetch s = .written t ∨
      ∃ x s' i, fetch s = .item x s' ∧ decode x = .ok i ∧ exec i s' = .next t := by
  unfold step
  cases hf : fetch s with
  | waiting => simp [eq_comm]
  | written s' => simp [eq_comm]
  | item x s' =>
    cases hd : decode x with
    | ok i => simp [hd]
    | error e => simp [hd]

end Sys2Proof.Machine
end

