-- ==== Sys2Proof/Laws/Exec.lean ====
section
/-! SUPPORT. For each unit one lemma that says all its instructions can answer: if `exec` answers a next state, one of these cases holds. -/

namespace Sys2Proof.Machine

open Sys2Proof.Safety

/-- Every instruction belongs to one unit. -/
theorem instr_unit_cases (i : Instr) :
    isCommand i = true ∨ isParserStep i = true ∨ isSerializerStep i = true ∨ isCrcStep i = true := by
  cases i <;> simp [isCommand, isParserStep, isSerializerStep, isCrcStep]

/-- All a command can answer (R102 to R105). -/
theorem exec_command_cases {i : Instr} {s t : State} (hi : isCommand i = true) (h : exec i s = .next t) :
    s.unit = .idle ∧
      ((i = .nop ∧ t = s) ∨
       (i = .crc ∧ crcValid s.capacity s.argA ∧ t = startCrc s.argA s) ∨
       (i = .load ∧ loadValid s.capacity s.argA s.argB ∧ t = startLoad s.argA s.argB s) ∨
       (i = .dump ∧ dumpValid s.capacity s.argA s.argB ∧ t = startDump s.argA s.argB s)) := by
  cases i <;> simp only [isCommand, Bool.false_eq_true] at hi
  · obtain ⟨hu, hk⟩ := whenIdle_next_iff.mp (show execNop s = _ from h)
    cases hk; exact ⟨hu, .inl ⟨rfl, rfl⟩⟩
  · obtain ⟨hu, hk⟩ := whenIdle_next_iff.mp (show execCrc s = _ from h)
    split at hk
    · cases hk; exact ⟨hu, .inr (.inl ⟨rfl, by assumption, rfl⟩)⟩
    · cases hk
  · obtain ⟨hu, hk⟩ := whenIdle_next_iff.mp (show execLoad s = _ from h)
    split at hk
    · cases hk; exact ⟨hu, .inr (.inr (.inl ⟨rfl, by assumption, rfl⟩))⟩
    · cases hk
  · obtain ⟨hu, hk⟩ := whenIdle_next_iff.mp (show execDump s = _ from h)
    split at hk
    · cases hk; exact ⟨hu, .inr (.inr (.inr ⟨rfl, by assumption, rfl⟩))⟩
    · cases hk

/-- All a parser step can answer (R142 to R156). -/
theorem exec_parser_cases {i : Instr} {s t : State} (hi : isParserStep i = true) (h : exec i s = .next t) :
    s.unit = .load ∧
      (t = s ∨
       (isAHex i = true ∧ s.pstate = .address ∧ ∃ d, t = setSeen { s with paddr := shiftInDigit s.paddr d }) ∨
       (s.pstate = .address ∧ t = { s with pstate := .byteHighNibble }) ∨
       (i = .aLt ∧ s.pstate = .address ∧ s.pseen = true ∧ t = finish { s with pstatus := .stOk }) ∨
       (∃ e, t = raiseLoadError e s ∧ raises e i) ∨
       (s.pstate = .byteHighNibble ∧ ∃ d, t = { s with pbyte := highNibble d, pstate := .byteLowNibble }) ∨
       (i = .hLt ∧ s.pstate = .byteHighNibble ∧ t = { s with paddr := 0#32, pstate := .address }) ∨
       (isLHex i = true ∧ s.pstate = .byteLowNibble ∧ ∃ d, lHexStep d s = .next t)) := by
  have skip {p : PState} (h : whenParser p skipStep s = .next t) : s.unit = .load ∧ t = s := by
    obtain ⟨⟨hu, _⟩, hk⟩ := whenParser_next_iff.mp h
    cases hk; exact ⟨hu, rfl⟩
  have err {p : PState} {e : LoadError} (h : whenParser p (errorStep e) s = .next t) : s.unit = .load ∧ t = raiseLoadError e s := by
    obtain ⟨⟨hu, _⟩, hk⟩ := whenParser_next_iff.mp h
    cases hk; exact ⟨hu, rfl⟩
  have aHex {d : Nibble} (h : whenParser .address (aHexStep d) s = .next t) :
      s.unit = .load ∧ s.pstate = .address ∧ ∃ d, t = setSeen { s with paddr := shiftInDigit s.paddr d } := by
    obtain ⟨⟨hu, hp⟩, hk⟩ := whenParser_next_iff.mp h
    cases hk; exact ⟨hu, hp, d, rfl⟩
  have hHex {d : Nibble} (h : whenParser .byteHighNibble (hHexStep d) s = .next t) :
      s.unit = .load ∧ s.pstate = .byteHighNibble ∧ ∃ d, t = { s with pbyte := highNibble d, pstate := .byteLowNibble } := by
    obtain ⟨⟨hu, hp⟩, hk⟩ := whenParser_next_iff.mp h
    cases hk; exact ⟨hu, hp, d, rfl⟩
  have lHex {d : Nibble} (h : whenParser .byteLowNibble (lHexStep d) s = .next t) :
      s.unit = .load ∧ s.pstate = .byteLowNibble ∧ ∃ d, lHexStep d s = .next t := by
    obtain ⟨⟨hu, hp⟩, hk⟩ := whenParser_next_iff.mp h
    exact ⟨hu, hp, d, hk⟩
  cases i <;> simp only [isParserStep, isCommand, isSerializerStep, isCrcStep, Bool.or_true, Bool.or_false, Bool.not_true,
    Bool.false_eq_true] at hi
  case pEof ch =>
    obtain ⟨hu, hk⟩ := whenLoading_next_iff.mp (show execPEof ch s = _ from h)
    cases hk
    exact ⟨hu, .inr (.inr (.inr (.inr (.inl ⟨.unknown, rfl, ch, rfl⟩))))⟩
  case aSp => exact (skip h).imp_right .inl
  case hSp => exact (skip h).imp_right .inl
  case lSp => exact (skip h).imp_right .inl
  case aColon =>
    obtain ⟨⟨hu, hp⟩, hk⟩ := whenParser_next_iff.mp (show execAColon s = _ from h)
    cases hk; exact ⟨hu, .inr (.inr (.inl ⟨hp, rfl⟩))⟩
  case aLt =>
    obtain ⟨⟨hu, hp⟩, hk⟩ := whenParser_next_iff.mp (show execALt s = _ from h)
    rcases aLtStep_next_iff.mp hk with ⟨_, rfl⟩ | ⟨hs, rfl⟩
    · exact ⟨hu, .inl rfl⟩
    · exact ⟨hu, .inr (.inr (.inr (.inl ⟨rfl, hp, hs, rfl⟩)))⟩
  case hLt =>
    obtain ⟨⟨hu, hp⟩, hk⟩ := whenParser_next_iff.mp (show execHLt s = _ from h)
    cases hk; exact ⟨hu, .inr (.inr (.inr (.inr (.inr (.inr (.inl ⟨rfl, hp, rfl⟩))))))⟩
  case lLt =>
    exact ⟨(err h).1, .inr (.inr (.inr (.inr (.inl ⟨.trunc, (err h).2, rfl⟩))))⟩
  case aOther ch => exact ⟨(err h).1, .inr (.inr (.inr (.inr (.inl ⟨_, (err h).2, rfl⟩))))⟩
  case hOther ch => exact ⟨(err h).1, .inr (.inr (.inr (.inr (.inl ⟨_, (err h).2, rfl⟩))))⟩
  case lOther ch => exact ⟨(err h).1, .inr (.inr (.inr (.inr (.inl ⟨_, (err h).2, rfl⟩))))⟩
  case hColon => exact ⟨(err h).1, .inr (.inr (.inr (.inr (.inl ⟨_, (err h).2, rfl⟩))))⟩
  case lColon => exact ⟨(err h).1, .inr (.inr (.inr (.inr (.inl ⟨_, (err h).2, rfl⟩))))⟩
  all_goals first
    | exact ⟨(aHex h).1, .inr (.inl ⟨rfl, (aHex h).2⟩)⟩
    | exact ⟨(hHex h).1, .inr (.inr (.inr (.inr (.inr (.inl (hHex h).2)))))⟩
    | exact ⟨(lHex h).1, .inr (.inr (.inr (.inr (.inr (.inr (.inr ⟨rfl, (lHex h).2⟩))))))⟩

/-- All a serializer step can answer (R126 to R131): it waits, or it emits one character. -/
theorem exec_serializer_cases {i : Instr} {s t : State} (hi : isSerializerStep i = true) (h : exec i s = .next t) :
    s.unit = .dump ∧
      (t = s ∨ (∃ c p, t = { charPut c s with spos := p }) ∨ (∃ k, s.spos = posSpace k ∧ latchStep k s = .next t) ∨
        endLineStep s = .next t) := by
  have emit {pos : LinePos} {k : State → Result} (h : whenSerializer pos k s = .next t) :
      s.unit = .dump ∧ s.spos = pos ∧ (t = s ∨ k s = .next t) := by
    obtain ⟨⟨hu, hp⟩, ⟨_, hk⟩ | ⟨_, rfl⟩⟩ := whenSerializer_next_iff.mp h
    · exact ⟨hu, hp, .inr hk⟩
    · exact ⟨hu, hp, .inl rfl⟩
  cases i <;> simp only [isSerializerStep, Bool.false_eq_true] at hi
  case sAddr k =>
    obtain ⟨hu, _, rfl | hk⟩ := emit (show execSAddr k s = _ from h)
    · exact ⟨hu, .inl rfl⟩
    · cases hk; exact ⟨hu, .inr (.inl ⟨_, _, rfl⟩)⟩
  case sColon =>
    obtain ⟨hu, _, rfl | hk⟩ := emit (show execSColon s = _ from h)
    · exact ⟨hu, .inl rfl⟩
    · cases hk; exact ⟨hu, .inr (.inl ⟨_, _, rfl⟩)⟩
  case sSpace k =>
    obtain ⟨hu, hp, rfl | hk⟩ := emit (show execSSpace k s = _ from h)
    · exact ⟨hu, .inl rfl⟩
    · exact ⟨hu, .inr (.inr (.inl ⟨k, hp, hk⟩))⟩
  case sHi k =>
    obtain ⟨hu, _, rfl | hk⟩ := emit (show execSHi k s = _ from h)
    · exact ⟨hu, .inl rfl⟩
    · cases hk; exact ⟨hu, .inr (.inl ⟨_, _, rfl⟩)⟩
  case sLo k =>
    obtain ⟨hu, _, rfl | hk⟩ := emit (show execSLo k s = _ from h)
    · exact ⟨hu, .inl rfl⟩
    · cases hk; exact ⟨hu, .inr (.inl ⟨_, _, rfl⟩)⟩
  case sEol =>
    obtain ⟨hu, _, rfl | hk⟩ := emit (show execSEol s = _ from h)
    · exact ⟨hu, .inl rfl⟩
    · exact ⟨hu, .inr (.inr (.inr hk))⟩

/-- All a CRC unit step can answer (R185 to R187). -/
theorem exec_crc_cases {i : Instr} {s t : State} (hi : isCrcStep i = true) (h : exec i s = .next t) :
    s.unit = .crc ∧
      ((s.cphase = .cData ∧ absorbStep s = .next t) ∨
       (s.cphase = .cLen ∧ s.crem ≠ 0#32 ∧ t = { s with crc := crcByte s.crc (s.crem.setWidth 8), crem := s.crem >>> 8 }) ∨
       (i = .cFin ∧ s.cphase = .cLen ∧ s.crem = 0#32 ∧
         t = finish { s with crcOut := crcResult s.crc, cphase := .cDone })) := by
  cases i <;> simp only [isCrcStep, Bool.false_eq_true] at hi
  case cByte =>
    obtain ⟨⟨hu, hp⟩, hk⟩ := whenCrc_next_iff.mp (show execCByte s = _ from h)
    exact ⟨hu, .inl ⟨hp, hk⟩⟩
  case cLen =>
    obtain ⟨⟨hu, hp⟩, hk⟩ := whenCrc_next_iff.mp (show execCLen s = _ from h)
    split at hk
    · cases hk
    · cases hk; exact ⟨hu, .inr (.inl ⟨hp, by assumption, rfl⟩)⟩
  case cFin =>
    obtain ⟨⟨hu, hp⟩, hk⟩ := whenCrc_next_iff.mp (show execCFin s = _ from h)
    split at hk
    · cases hk; exact ⟨hu, .inr (.inr ⟨rfl, hp, by assumption, rfl⟩)⟩
    · cases hk

end Sys2Proof.Machine
end

