-- ==== Sys2Proof/Laws/PerInstr.lean ====
section
/-! SUPPORT. The family `RowBits`: the symbol the encoder gives an instruction carries the fixed bits of its row of spec/opcode_table.json. The
match and mask pairs below are the table's own columns, row by row, and independent of the decoder's. -/

namespace Sys2Proof.Laws

/-- The `match` and `mask` columns of a `SYM9` row (30_encoding.md R84); the other formats have none over a symbol. -/
def RowBits.row : Instr → Option (Sym × Sym)
  | .pEof _ => some (0x100#9, 0x100#9)
  | .aHex07 _ => some (0x030#9, 0x1F8#9)
  | .aHex89 _ => some (0x038#9, 0x1FE#9)
  | .aHexUA => some (0x041#9, 0x1FF#9)
  | .aHexUBUC _ => some (0x042#9, 0x1FE#9)
  | .aHexUDUE _ => some (0x044#9, 0x1FE#9)
  | .aHexUF => some (0x046#9, 0x1FF#9)
  | .aHexLA => some (0x061#9, 0x1FF#9)
  | .aHexLBLC _ => some (0x062#9, 0x1FE#9)
  | .aHexLDLE _ => some (0x064#9, 0x1FE#9)
  | .aHexLF => some (0x066#9, 0x1FF#9)
  | .aSp => some (0x020#9, 0x1FF#9)
  | .aColon => some (0x03A#9, 0x1FF#9)
  | .aLt => some (0x00A#9, 0x1FF#9)
  | .aOther _ => some (0x000#9, 0x000#9)
  | .hHex07 _ => some (0x030#9, 0x1F8#9)
  | .hHex89 _ => some (0x038#9, 0x1FE#9)
  | .hHexUA => some (0x041#9, 0x1FF#9)
  | .hHexUBUC _ => some (0x042#9, 0x1FE#9)
  | .hHexUDUE _ => some (0x044#9, 0x1FE#9)
  | .hHexUF => some (0x046#9, 0x1FF#9)
  | .hHexLA => some (0x061#9, 0x1FF#9)
  | .hHexLBLC _ => some (0x062#9, 0x1FE#9)
  | .hHexLDLE _ => some (0x064#9, 0x1FE#9)
  | .hHexLF => some (0x066#9, 0x1FF#9)
  | .hSp => some (0x020#9, 0x1FF#9)
  | .hColon => some (0x03A#9, 0x1FF#9)
  | .hLt => some (0x00A#9, 0x1FF#9)
  | .hOther _ => some (0x000#9, 0x000#9)
  | .lHex07 _ => some (0x030#9, 0x1F8#9)
  | .lHex89 _ => some (0x038#9, 0x1FE#9)
  | .lHexUA => some (0x041#9, 0x1FF#9)
  | .lHexUBUC _ => some (0x042#9, 0x1FE#9)
  | .lHexUDUE _ => some (0x044#9, 0x1FE#9)
  | .lHexUF => some (0x046#9, 0x1FF#9)
  | .lHexLA => some (0x061#9, 0x1FF#9)
  | .lHexLBLC _ => some (0x062#9, 0x1FE#9)
  | .lHexLDLE _ => some (0x064#9, 0x1FE#9)
  | .lHexLF => some (0x066#9, 0x1FF#9)
  | .lSp => some (0x020#9, 0x1FF#9)
  | .lColon => some (0x03A#9, 0x1FF#9)
  | .lLt => some (0x00A#9, 0x1FF#9)
  | .lOther _ => some (0x000#9, 0x000#9)
  | .nop => none
  | .crc => none
  | .load => none
  | .dump => none
  | .sAddr _ => none
  | .sColon => none
  | .sSpace _ => none
  | .sHi _ => none
  | .sLo _ => none
  | .sEol => none
  | .cByte => none
  | .cLen => none
  | .cFin => none

/-- The encoded symbol matches its row; a command or a selector has no symbol row. -/
def RowBits.Statement (i : Instr) : Prop :=
  match encode i with
  | .sym _ c => ∃ r, RowBits.row i = some r ∧ c &&& r.2 = r.1
  | .cmd _ => RowBits.row i = none
  | .spos _ => RowBits.row i = none
  | .cphase _ _ => RowBits.row i = none

theorem RowBits.pEof (ch : BitVec 8) : RowBits.Statement (.pEof ch) := ⟨_, rfl, by revert ch; decide⟩
theorem RowBits.aHex07 (lo : BitVec 3) : RowBits.Statement (.aHex07 lo) := ⟨_, rfl, by revert lo; decide⟩
theorem RowBits.aHex89 (lo : BitVec 1) : RowBits.Statement (.aHex89 lo) := ⟨_, rfl, by revert lo; decide⟩
theorem RowBits.aHexUA : RowBits.Statement .aHexUA := ⟨_, rfl, by decide⟩
theorem RowBits.aHexUBUC (lo : BitVec 1) : RowBits.Statement (.aHexUBUC lo) := ⟨_, rfl, by revert lo; decide⟩
theorem RowBits.aHexUDUE (lo : BitVec 1) : RowBits.Statement (.aHexUDUE lo) := ⟨_, rfl, by revert lo; decide⟩
theorem RowBits.aHexUF : RowBits.Statement .aHexUF := ⟨_, rfl, by decide⟩
theorem RowBits.aHexLA : RowBits.Statement .aHexLA := ⟨_, rfl, by decide⟩
theorem RowBits.aHexLBLC (lo : BitVec 1) : RowBits.Statement (.aHexLBLC lo) := ⟨_, rfl, by revert lo; decide⟩
theorem RowBits.aHexLDLE (lo : BitVec 1) : RowBits.Statement (.aHexLDLE lo) := ⟨_, rfl, by revert lo; decide⟩
theorem RowBits.aHexLF : RowBits.Statement .aHexLF := ⟨_, rfl, by decide⟩
theorem RowBits.aSp : RowBits.Statement .aSp := ⟨_, rfl, by decide⟩
theorem RowBits.aColon : RowBits.Statement .aColon := ⟨_, rfl, by decide⟩
theorem RowBits.aLt : RowBits.Statement .aLt := ⟨_, rfl, by decide⟩
theorem RowBits.aOther (ch : BitVec 8) : RowBits.Statement (.aOther ch) := ⟨_, rfl, by revert ch; decide⟩
theorem RowBits.hHex07 (lo : BitVec 3) : RowBits.Statement (.hHex07 lo) := ⟨_, rfl, by revert lo; decide⟩
theorem RowBits.hHex89 (lo : BitVec 1) : RowBits.Statement (.hHex89 lo) := ⟨_, rfl, by revert lo; decide⟩
theorem RowBits.hHexUA : RowBits.Statement .hHexUA := ⟨_, rfl, by decide⟩
theorem RowBits.hHexUBUC (lo : BitVec 1) : RowBits.Statement (.hHexUBUC lo) := ⟨_, rfl, by revert lo; decide⟩
theorem RowBits.hHexUDUE (lo : BitVec 1) : RowBits.Statement (.hHexUDUE lo) := ⟨_, rfl, by revert lo; decide⟩
theorem RowBits.hHexUF : RowBits.Statement .hHexUF := ⟨_, rfl, by decide⟩
theorem RowBits.hHexLA : RowBits.Statement .hHexLA := ⟨_, rfl, by decide⟩
theorem RowBits.hHexLBLC (lo : BitVec 1) : RowBits.Statement (.hHexLBLC lo) := ⟨_, rfl, by revert lo; decide⟩
theorem RowBits.hHexLDLE (lo : BitVec 1) : RowBits.Statement (.hHexLDLE lo) := ⟨_, rfl, by revert lo; decide⟩
theorem RowBits.hHexLF : RowBits.Statement .hHexLF := ⟨_, rfl, by decide⟩
theorem RowBits.hSp : RowBits.Statement .hSp := ⟨_, rfl, by decide⟩
theorem RowBits.hColon : RowBits.Statement .hColon := ⟨_, rfl, by decide⟩
theorem RowBits.hLt : RowBits.Statement .hLt := ⟨_, rfl, by decide⟩
theorem RowBits.hOther (ch : BitVec 8) : RowBits.Statement (.hOther ch) := ⟨_, rfl, by revert ch; decide⟩
theorem RowBits.lHex07 (lo : BitVec 3) : RowBits.Statement (.lHex07 lo) := ⟨_, rfl, by revert lo; decide⟩
theorem RowBits.lHex89 (lo : BitVec 1) : RowBits.Statement (.lHex89 lo) := ⟨_, rfl, by revert lo; decide⟩
theorem RowBits.lHexUA : RowBits.Statement .lHexUA := ⟨_, rfl, by decide⟩
theorem RowBits.lHexUBUC (lo : BitVec 1) : RowBits.Statement (.lHexUBUC lo) := ⟨_, rfl, by revert lo; decide⟩
theorem RowBits.lHexUDUE (lo : BitVec 1) : RowBits.Statement (.lHexUDUE lo) := ⟨_, rfl, by revert lo; decide⟩
theorem RowBits.lHexUF : RowBits.Statement .lHexUF := ⟨_, rfl, by decide⟩
theorem RowBits.lHexLA : RowBits.Statement .lHexLA := ⟨_, rfl, by decide⟩
theorem RowBits.lHexLBLC (lo : BitVec 1) : RowBits.Statement (.lHexLBLC lo) := ⟨_, rfl, by revert lo; decide⟩
theorem RowBits.lHexLDLE (lo : BitVec 1) : RowBits.Statement (.lHexLDLE lo) := ⟨_, rfl, by revert lo; decide⟩
theorem RowBits.lHexLF : RowBits.Statement .lHexLF := ⟨_, rfl, by decide⟩
theorem RowBits.lSp : RowBits.Statement .lSp := ⟨_, rfl, by decide⟩
theorem RowBits.lColon : RowBits.Statement .lColon := ⟨_, rfl, by decide⟩
theorem RowBits.lLt : RowBits.Statement .lLt := ⟨_, rfl, by decide⟩
theorem RowBits.lOther (ch : BitVec 8) : RowBits.Statement (.lOther ch) := ⟨_, rfl, by revert ch; decide⟩
theorem RowBits.nop : RowBits.Statement .nop := rfl
theorem RowBits.crc : RowBits.Statement .crc := rfl
theorem RowBits.load : RowBits.Statement .load := rfl
theorem RowBits.dump : RowBits.Statement .dump := rfl
theorem RowBits.sAddr (k : AddrIdx) : RowBits.Statement (.sAddr k) := rfl
theorem RowBits.sColon : RowBits.Statement .sColon := rfl
theorem RowBits.sSpace (i : ByteIdx) : RowBits.Statement (.sSpace i) := rfl
theorem RowBits.sHi (i : ByteIdx) : RowBits.Statement (.sHi i) := rfl
theorem RowBits.sLo (i : ByteIdx) : RowBits.Statement (.sLo i) := rfl
theorem RowBits.sEol : RowBits.Statement .sEol := rfl
theorem RowBits.cByte : RowBits.Statement .cByte := rfl
theorem RowBits.cLen : RowBits.Statement .cLen := rfl
theorem RowBits.cFin : RowBits.Statement .cFin := rfl

end Sys2Proof.Laws
end

