-- ==== Sys2Proof/Tests/Slice0.lean ====
section
/-! SUPPORT. The model's own tests: words written out from 30_encoding.md, vectors of 95_test_vectors.md, one step each on a small state, and for
every obligation with hypotheses a witness that meets them. A test on fixed values checks our own work; it is no claim. -/

namespace Sys2Proof.Tests

open Sys2Proof Sys2Proof.Machine Sys2Proof.Safety

/-! ## Small states -/

/-- An idle machine: every register zero, the image listing the bytes 01 02 03 04 of vector S1 at 0 to 3. -/
def idle : State where
  img := [(0, 0x01#8), (1, 0x02#8), (2, 0x03#8), (3, 0x04#8)]
  unit := .idle
  argA := 0#32
  argB := 0#32
  pstate := .address
  paddr := 0#32
  pbyte := 0#8
  pcount := 0#32
  pseen := false
  pstart := 0#32
  pend := 0#32
  pstatus := .stNone
  perrch := 0#8
  sstart := 0#32
  send := 0#32
  sline := 0#32
  spos := 0
  sbyte := 0#8
  crc := 0#32
  cidx := 0#32
  crem := 0#32
  clen := 0#32
  cphase := .cDone
  crcOut := 0#32
  variant := .readOnly
  host := []
  input := []
  inputEnded := false
  output := []
  sinkRoom := none

/-- An idle machine with operands. -/
def withArgs (a b : Word) : State := { idle with argA := a, argB := b }

/-- A LOAD of [0, 16) in parser state `p` at address `a`, with `b` pending. -/
def loading (p : PState) (a : Word) (b : Byte) : State :=
  { idle with unit := .load, pend := 16#32, pstate := p, paddr := a, pbyte := b }

/-- A DUMP of [0, 32) at line `a`, position `p`. -/
def dumping (a : Word) (p : Fin 56) : State := { idle with unit := .dump, send := 32#32, sline := a, spos := p }

/-- A CRC of length `n`, the data at index `i`, in phase `ph`, with `r` of the length left. -/
def summing (ph : CPhase) (n i r : Word) : State :=
  { idle with unit := .crc, cphase := ph, clen := n, cidx := i, crem := r }

/-- A source that delivers `cs`. -/
def fed (s : State) (cs : List Sym) : State := { s with input := cs }

/-- Part of a next state; nothing of a stop. -/
def nextOf {α : Type} (r : Result) (f : State → α) : Option α :=
  match r with
  | .next t => some (f t)
  | .fault _ => none
  | .refused _ => none

/-- Why a meaning refuses; nothing of another outcome. -/
def refusalOf (r : Result) : Option Refusal :=
  match r with
  | .refused why => some why
  | .next _ => none
  | .fault _ => none

/-- The instruction decoded. -/
def decoded (x : Item) : Option Instr :=
  match decode x with
  | .ok i => some i
  | .error _ => none

/-! ## Well-formedness: a term for each check, which the check refuses -/

/-- R74: hex digits, the space, the colon and the line feed are not of class `OTHER`. -/
theorem test_wf_aOther_refuses_other_classes :
    (Instr.aOther 0x30#8).wf = false ∧
    (Instr.aOther 0x39#8).wf = false ∧
    (Instr.aOther 0x41#8).wf = false ∧
    (Instr.aOther 0x46#8).wf = false ∧
    (Instr.aOther 0x61#8).wf = false ∧
    (Instr.aOther 0x66#8).wf = false ∧
    (Instr.aOther 0x20#8).wf = false ∧
    (Instr.aOther 0x3A#8).wf = false ∧
    (Instr.aOther 0x0A#8).wf = false := by decide

/-- R75 and vector table 2.1: the characters next to the hex ranges, tab, carriage return, NUL. -/
theorem test_wf_aOther_accepts_other :
    (Instr.aOther 0x0D#8).wf = true ∧
    (Instr.aOther 0x09#8).wf = true ∧
    (Instr.aOther 0x2F#8).wf = true ∧
    (Instr.aOther 0x40#8).wf = true ∧
    (Instr.aOther 0x47#8).wf = true ∧
    (Instr.aOther 0x60#8).wf = true ∧
    (Instr.aOther 0x67#8).wf = true ∧
    (Instr.aOther 0x00#8).wf = true ∧
    (Instr.aOther 0xB0#8).wf = true := by decide

/-- R74: hex digits, the space, the colon and the line feed are not of class `OTHER`. -/
theorem test_wf_hOther_refuses_other_classes :
    (Instr.hOther 0x30#8).wf = false ∧
    (Instr.hOther 0x39#8).wf = false ∧
    (Instr.hOther 0x41#8).wf = false ∧
    (Instr.hOther 0x46#8).wf = false ∧
    (Instr.hOther 0x61#8).wf = false ∧
    (Instr.hOther 0x66#8).wf = false ∧
    (Instr.hOther 0x20#8).wf = false ∧
    (Instr.hOther 0x3A#8).wf = false ∧
    (Instr.hOther 0x0A#8).wf = false := by decide

/-- R75 and vector table 2.1: the characters next to the hex ranges, tab, carriage return, NUL. -/
theorem test_wf_hOther_accepts_other :
    (Instr.hOther 0x0D#8).wf = true ∧
    (Instr.hOther 0x09#8).wf = true ∧
    (Instr.hOther 0x2F#8).wf = true ∧
    (Instr.hOther 0x40#8).wf = true ∧
    (Instr.hOther 0x47#8).wf = true ∧
    (Instr.hOther 0x60#8).wf = true ∧
    (Instr.hOther 0x67#8).wf = true ∧
    (Instr.hOther 0x00#8).wf = true ∧
    (Instr.hOther 0xB0#8).wf = true := by decide

/-- R74: hex digits, the space, the colon and the line feed are not of class `OTHER`. -/
theorem test_wf_lOther_refuses_other_classes :
    (Instr.lOther 0x30#8).wf = false ∧
    (Instr.lOther 0x39#8).wf = false ∧
    (Instr.lOther 0x41#8).wf = false ∧
    (Instr.lOther 0x46#8).wf = false ∧
    (Instr.lOther 0x61#8).wf = false ∧
    (Instr.lOther 0x66#8).wf = false ∧
    (Instr.lOther 0x20#8).wf = false ∧
    (Instr.lOther 0x3A#8).wf = false ∧
    (Instr.lOther 0x0A#8).wf = false := by decide

/-- R75 and vector table 2.1: the characters next to the hex ranges, tab, carriage return, NUL. -/
theorem test_wf_lOther_accepts_other :
    (Instr.lOther 0x0D#8).wf = true ∧
    (Instr.lOther 0x09#8).wf = true ∧
    (Instr.lOther 0x2F#8).wf = true ∧
    (Instr.lOther 0x40#8).wf = true ∧
    (Instr.lOther 0x47#8).wf = true ∧
    (Instr.lOther 0x60#8).wf = true ∧
    (Instr.lOther 0x67#8).wf = true ∧
    (Instr.lOther 0x00#8).wf = true ∧
    (Instr.lOther 0xB0#8).wf = true := by decide

/-! ## Decoding: every constructor, from a word written out from R70 to R74, R79 and R81 -/

/-- R74: `0`, `7`, `8`, `9`, `A` to `F`. -/
theorem test_decode_address_digits :
    decoded (.sym .address 0b000110000#9) = some (.aHex07 0#3) ∧
    decoded (.sym .address 0b000110111#9) = some (.aHex07 7#3) ∧
    decoded (.sym .address 0b000111000#9) = some (.aHex89 0#1) ∧
    decoded (.sym .address 0b000111001#9) = some (.aHex89 1#1) ∧
    decoded (.sym .address 0b001000001#9) = some (.aHexUA) ∧
    decoded (.sym .address 0b001000010#9) = some (.aHexUBUC 0#1) ∧
    decoded (.sym .address 0b001000011#9) = some (.aHexUBUC 1#1) ∧
    decoded (.sym .address 0b001000100#9) = some (.aHexUDUE 0#1) ∧
    decoded (.sym .address 0b001000101#9) = some (.aHexUDUE 1#1) ∧
    decoded (.sym .address 0b001000110#9) = some (.aHexUF) := by decide

/-- R74: `a` to `f`, space, colon, line feed, carriage return, `G`. -/
theorem test_decode_address_rest :
    decoded (.sym .address 0b001100001#9) = some (.aHexLA) ∧
    decoded (.sym .address 0b001100010#9) = some (.aHexLBLC 0#1) ∧
    decoded (.sym .address 0b001100011#9) = some (.aHexLBLC 1#1) ∧
    decoded (.sym .address 0b001100100#9) = some (.aHexLDLE 0#1) ∧
    decoded (.sym .address 0b001100101#9) = some (.aHexLDLE 1#1) ∧
    decoded (.sym .address 0b001100110#9) = some (.aHexLF) ∧
    decoded (.sym .address 0b000100000#9) = some (.aSp) ∧
    decoded (.sym .address 0b000111010#9) = some (.aColon) ∧
    decoded (.sym .address 0b000001010#9) = some (.aLt) ∧
    decoded (.sym .address 0b000001101#9) = some (.aOther 0x0D#8) ∧
    decoded (.sym .address 0b001000111#9) = some (.aOther 0x47#8) := by decide

/-- R74: `0`, `7`, `8`, `9`, `A` to `F`. -/
theorem test_decode_high_nibble_digits :
    decoded (.sym .byteHighNibble 0b000110000#9) = some (.hHex07 0#3) ∧
    decoded (.sym .byteHighNibble 0b000110111#9) = some (.hHex07 7#3) ∧
    decoded (.sym .byteHighNibble 0b000111000#9) = some (.hHex89 0#1) ∧
    decoded (.sym .byteHighNibble 0b000111001#9) = some (.hHex89 1#1) ∧
    decoded (.sym .byteHighNibble 0b001000001#9) = some (.hHexUA) ∧
    decoded (.sym .byteHighNibble 0b001000010#9) = some (.hHexUBUC 0#1) ∧
    decoded (.sym .byteHighNibble 0b001000011#9) = some (.hHexUBUC 1#1) ∧
    decoded (.sym .byteHighNibble 0b001000100#9) = some (.hHexUDUE 0#1) ∧
    decoded (.sym .byteHighNibble 0b001000101#9) = some (.hHexUDUE 1#1) ∧
    decoded (.sym .byteHighNibble 0b001000110#9) = some (.hHexUF) := by decide

/-- R74: `a` to `f`, space, colon, line feed, carriage return, `G`. -/
theorem test_decode_high_nibble_rest :
    decoded (.sym .byteHighNibble 0b001100001#9) = some (.hHexLA) ∧
    decoded (.sym .byteHighNibble 0b001100010#9) = some (.hHexLBLC 0#1) ∧
    decoded (.sym .byteHighNibble 0b001100011#9) = some (.hHexLBLC 1#1) ∧
    decoded (.sym .byteHighNibble 0b001100100#9) = some (.hHexLDLE 0#1) ∧
    decoded (.sym .byteHighNibble 0b001100101#9) = some (.hHexLDLE 1#1) ∧
    decoded (.sym .byteHighNibble 0b001100110#9) = some (.hHexLF) ∧
    decoded (.sym .byteHighNibble 0b000100000#9) = some (.hSp) ∧
    decoded (.sym .byteHighNibble 0b000111010#9) = some (.hColon) ∧
    decoded (.sym .byteHighNibble 0b000001010#9) = some (.hLt) ∧
    decoded (.sym .byteHighNibble 0b000001101#9) = some (.hOther 0x0D#8) ∧
    decoded (.sym .byteHighNibble 0b001000111#9) = some (.hOther 0x47#8) := by decide

/-- R74: `0`, `7`, `8`, `9`, `A` to `F`. -/
theorem test_decode_low_nibble_digits :
    decoded (.sym .byteLowNibble 0b000110000#9) = some (.lHex07 0#3) ∧
    decoded (.sym .byteLowNibble 0b000110111#9) = some (.lHex07 7#3) ∧
    decoded (.sym .byteLowNibble 0b000111000#9) = some (.lHex89 0#1) ∧
    decoded (.sym .byteLowNibble 0b000111001#9) = some (.lHex89 1#1) ∧
    decoded (.sym .byteLowNibble 0b001000001#9) = some (.lHexUA) ∧
    decoded (.sym .byteLowNibble 0b001000010#9) = some (.lHexUBUC 0#1) ∧
    decoded (.sym .byteLowNibble 0b001000011#9) = some (.lHexUBUC 1#1) ∧
    decoded (.sym .byteLowNibble 0b001000100#9) = some (.lHexUDUE 0#1) ∧
    decoded (.sym .byteLowNibble 0b001000101#9) = some (.lHexUDUE 1#1) ∧
    decoded (.sym .byteLowNibble 0b001000110#9) = some (.lHexUF) := by decide

/-- R74: `a` to `f`, space, colon, line feed, carriage return, `G`. -/
theorem test_decode_low_nibble_rest :
    decoded (.sym .byteLowNibble 0b001100001#9) = some (.lHexLA) ∧
    decoded (.sym .byteLowNibble 0b001100010#9) = some (.lHexLBLC 0#1) ∧
    decoded (.sym .byteLowNibble 0b001100011#9) = some (.lHexLBLC 1#1) ∧
    decoded (.sym .byteLowNibble 0b001100100#9) = some (.lHexLDLE 0#1) ∧
    decoded (.sym .byteLowNibble 0b001100101#9) = some (.lHexLDLE 1#1) ∧
    decoded (.sym .byteLowNibble 0b001100110#9) = some (.lHexLF) ∧
    decoded (.sym .byteLowNibble 0b000100000#9) = some (.lSp) ∧
    decoded (.sym .byteLowNibble 0b000111010#9) = some (.lColon) ∧
    decoded (.sym .byteLowNibble 0b000001010#9) = some (.lLt) ∧
    decoded (.sym .byteLowNibble 0b000001101#9) = some (.lOther 0x0D#8) ∧
    decoded (.sym .byteLowNibble 0b001000111#9) = some (.lOther 0x47#8) := by decide

/-- R70: 0x100, 0x130 and 0x1FF are the sentinel. -/
theorem test_decode_eof :
    decoded (.sym .address 0b100000000#9) = some (.pEof 0x00#8) ∧
    decoded (.sym .byteHighNibble 0b100110000#9) = some (.pEof 0x30#8) ∧
    decoded (.sym .byteLowNibble 0b111111111#9) = some (.pEof 0xFF#8) := by decide

/-- R73. -/
theorem test_decode_commands :
    decoded (.cmd 0b00#2) = some .nop ∧
    decoded (.cmd 0b01#2) = some .crc ∧
    decoded (.cmd 0b10#2) = some .load ∧
    decoded (.cmd 0b11#2) = some .dump := by decide

/-- R79 and the step check of V61. -/
theorem test_decode_positions :
    decoded (.spos 0#6) = some (.sAddr 0) ∧
    decoded (.spos 5#6) = some (.sAddr 5) ∧
    decoded (.spos 6#6) = some .sColon ∧
    decoded (.spos 7#6) = some (.sSpace 0) ∧
    decoded (.spos 8#6) = some (.sHi 0) ∧
    decoded (.spos 9#6) = some (.sLo 0) ∧
    decoded (.spos 10#6) = some (.sSpace 1) ∧
    decoded (.spos 52#6) = some (.sSpace 15) ∧
    decoded (.spos 53#6) = some (.sHi 15) ∧
    decoded (.spos 54#6) = some (.sLo 15) ∧
    decoded (.spos 55#6) = some .sEol := by decide

/-- R185 to R187. -/
theorem test_decode_phases :
    decoded (.cphase 0#2 false) = some .cByte ∧
    decoded (.cphase 0#2 true) = some .cByte ∧
    decoded (.cphase 1#2 false) = some .cLen ∧
    decoded (.cphase 1#2 true) = some .cFin := by decide

/-- R83. -/
theorem test_decode_refuses_reserved :
    decode (.spos 56#6) = .error .reservedSpos ∧
    decode (.spos 63#6) = .error .reservedSpos ∧
    decode (.cphase 2#2 true) = .error .finishedCphase ∧
    decode (.cphase 3#2 false) = .error .reservedCphase := ⟨rfl, rfl, rfl, rfl⟩

/-- Vector table 2.1. -/
theorem test_classes :
    classify 0x02F#9 = .other ∧
    classify 0x030#9 = .hex ∧
    classify 0x039#9 = .hex ∧
    classify 0x03A#9 = .colon ∧
    classify 0x040#9 = .other ∧
    classify 0x046#9 = .hex ∧
    classify 0x047#9 = .other ∧
    classify 0x060#9 = .other ∧
    classify 0x066#9 = .hex ∧
    classify 0x067#9 = .other ∧
    classify 0x0B0#9 = .other ∧
    classify 0x130#9 = .eof := by decide

/-- R74: "The first five classes are disjoint"; any two rows above the catch-all differ in a bit that both masks fix. -/
theorem test_table_rows_disjoint :
    symRows.Pairwise (fun r q => (r.pattern ^^^ q.pattern) &&& r.mask &&& q.mask ≠ 0#9) := by decide

/-- Log 14: the bits above the table row select the state of its `pstate` or `select` field. -/
theorem test_table_words :
    decodeTableWord 16 0x037 = some (.aHex07 7#3) ∧
    decodeTableWord 16 0x237 = some (.hHex07 7#3) ∧
    decodeTableWord 16 0x437 = some (.lHex07 7#3) ∧
    decodeTableWord 16 0x100 = some (.pEof 0#8) ∧
    decodeTableWord 8 2 = some .load ∧
    decodeTableWord 8 0x77 = some .sEol ∧
    decodeTableWord 8 0x81 = some .cFin ∧
    decodeTableWord 8 0x85 = some .cLen ∧
    decodeTableWord 8 0x7F = none ∧
    decodeTableWord 16 0x600 = none := by decide

/-! ## Operands -/

/-- Vector table 2.1. -/
theorem test_hexval :
    hexval 0x30#8 = 0#4 ∧
    hexval 0x39#8 = 9#4 ∧
    hexval 0x41#8 = 10#4 ∧
    hexval 0x46#8 = 15#4 ∧
    hexval 0x61#8 = 10#4 ∧
    hexval 0x66#8 = 15#4 := by decide

/-- Vector table 2.2. -/
theorem test_hexchar :
    (List.range 16).map (fun n => hexchar (BitVec.ofNat 4 n)) =
      [0x30#8, 0x31#8, 0x32#8, 0x33#8, 0x34#8, 0x35#8, 0x36#8, 0x37#8, 0x38#8, 0x39#8, 0x61#8, 0x62#8, 0x63#8, 0x64#8, 0x65#8, 0x66#8] := by decide

/-- Vector table 2.2: `0007f0`, `001ff0`. -/
theorem test_hex6 :
    hex6 0x7F0#32 = [0x30#8, 0x30#8, 0x30#8, 0x37#8, 0x66#8, 0x30#8] ∧
    hex6 0x1FF0#32 = [0x30#8, 0x30#8, 0x31#8, 0x66#8, 0x66#8, 0x30#8] := by decide

/-- Vector table 2.2: `0a`, `a5`. -/
theorem test_hex2 :
    hex2 0x0A#8 = [0x30#8, 0x61#8] ∧
    hex2 0xA5#8 = [0x61#8, 0x35#8] := by decide

/-- V45: the earliest digit is shifted out. -/
theorem test_address_drops_ninth_digit :
    shiftInDigit 0x12345678#32 9#4 = 0x23456789#32 := by decide

/-- V45, V46: the index is window-relative. -/
theorem test_window_index :
    windowIndex 0x23456789#32 0x23456780#32 = 9 ∧
    windowIndex 16#32 16#32 = 0 := by decide

/-! ## The CRC function -/

/-- The bit-level trace of section 2.5. -/
theorem test_crc_byte_trace :
    crcShifts 7 0x01000000#32 = 0x80000000#32 ∧
    crcByte 0#32 0x01#8 = 0x04C11DB7#32 := by decide

/-- R181: entries of the table T. -/
theorem test_crc_table :
    crcByte 0#32 0x00#8 = 0#32 ∧
    crcByte 0#32 0x02#8 = 0x09823B6E#32 ∧
    crcByte 0#32 0x80#8 = 0x690CE0EE#32 ∧
    crcByte 0#32 0xFF#8 = 0xB1F740B4#32 := by decide

/-- R182. -/
theorem test_length_bytes :
    lenBytes 0#32 = [] ∧
    lenBytes 0x1234#32 = [0x34#8, 0x12#8] ∧
    lenBytes 0x800#32 = [0x00#8, 0x08#8] ∧
    lenBytes 0x10000#32 = [0x00#8, 0x00#8, 0x01#8] ∧
    lenBytes 0xFFFFFFFF#32 = [0xFF#8, 0xFF#8, 0xFF#8, 0xFF#8] := by decide

set_option maxRecDepth 8000 in
/-- V1, V2, V5. -/
theorem test_crc_short :
    crc32Len [] = 0#32 ∧
    crc32Len [0x00#8] = 0x04C11DB7#32 ∧
    crc32Len [0x61#8] = 0xB73D8601#32 := by decide

set_option maxRecDepth 8000 in
/-- V8. -/
theorem test_crc_four_bytes :
    crc32Len [0x01#8, 0x02#8, 0x03#8, 0x04#8] = 0xA15EEDA8#32 := by decide

set_option maxRecDepth 8000 in
/-- V7; not 0xFC891918, the catalogue value. -/
theorem test_crc_check_string :
    crc32Len [0x31#8, 0x32#8, 0x33#8, 0x34#8, 0x35#8, 0x36#8, 0x37#8, 0x38#8, 0x39#8] = 0xC8859FEE#32 := by decide

/-! ## The image -/

theorem test_memory_write_in_order :
    Memory.write [(1, 0x11#8), (5, 0x55#8)] 3 0x33#8 = [(1, 0x11#8), (3, 0x33#8), (5, 0x55#8)] ∧
    Memory.write [(1, 0x11#8)] 1 0x22#8 = [(1, 0x22#8)] ∧
    Memory.write [(1, 0x11#8)] 2047 0x22#8 = [(1, 0x11#8), (2047, 0x22#8)] := by decide

theorem test_memory_read :
    Memory.read idle.img 3 = some 0x04#8 ∧
    Memory.read idle.img 4 = none ∧
    idle.imgByte 3 = 0x04#8 := by decide

/-- R21: indices outside [0, CAPACITY). -/
theorem test_index_outside_image_faults :
    memRead 2048 idle = .error (.imageIndex 2048) ∧
    memWrite 2048 0x00#8 idle = .error (.imageIndex 2048) ∧
    memRead 3 idle = .ok 0x04#8 := ⟨rfl, rfl, rfl⟩

/-! ## One step of each instruction -/

/-- V42, V30: the sentinel inside a byte is not a truncation. -/
theorem test_pEof :
    nextOf (exec (.pEof 0x30#8) (loading .byteLowNibble 3#32 0x50#8)) (fun t => (t.unit, t.pstatus, t.paddr)) = some (.idle, .stUnknown, 3#32) ∧
    nextOf (exec (.pEof 0x00#8) (loading .address 0#32 0#8)) (fun t => (t.unit, t.pstatus)) = some (.idle, .stUnknown) := by decide

/-- R143, R76. -/
theorem test_aHex07 :
    nextOf (exec (.aHex07 5#3) (loading .address 0x12#32 0#8)) (fun t => (t.paddr, t.pseen, t.pstate)) = some (0x125#32, true, .address) := by decide

/-- R143, R76. -/
theorem test_aHex89 :
    nextOf (exec (.aHex89 1#1) (loading .address 0x12#32 0#8)) (fun t => (t.paddr, t.pseen, t.pstate)) = some (0x129#32, true, .address) := by decide

/-- R143, R76. -/
theorem test_aHexUA :
    nextOf (exec .aHexUA (loading .address 0x12#32 0#8)) (fun t => (t.paddr, t.pseen, t.pstate)) = some (0x12A#32, true, .address) := by decide

/-- R143, R76. -/
theorem test_aHexUBUC :
    nextOf (exec (.aHexUBUC 1#1) (loading .address 0x12#32 0#8)) (fun t => (t.paddr, t.pseen, t.pstate)) = some (0x12C#32, true, .address) := by decide

/-- R143, R76. -/
theorem test_aHexUDUE :
    nextOf (exec (.aHexUDUE 0#1) (loading .address 0x12#32 0#8)) (fun t => (t.paddr, t.pseen, t.pstate)) = some (0x12D#32, true, .address) := by decide

/-- R143, R76. -/
theorem test_aHexUF :
    nextOf (exec .aHexUF (loading .address 0x12#32 0#8)) (fun t => (t.paddr, t.pseen, t.pstate)) = some (0x12F#32, true, .address) := by decide

/-- R143, R76. -/
theorem test_aHexLA :
    nextOf (exec .aHexLA (loading .address 0x12#32 0#8)) (fun t => (t.paddr, t.pseen, t.pstate)) = some (0x12A#32, true, .address) := by decide

/-- R143, R76. -/
theorem test_aHexLBLC :
    nextOf (exec (.aHexLBLC 0#1) (loading .address 0x12#32 0#8)) (fun t => (t.paddr, t.pseen, t.pstate)) = some (0x12B#32, true, .address) := by decide

/-- R143, R76. -/
theorem test_aHexLDLE :
    nextOf (exec (.aHexLDLE 1#1) (loading .address 0x12#32 0#8)) (fun t => (t.paddr, t.pseen, t.pstate)) = some (0x12E#32, true, .address) := by decide

/-- R143, R76. -/
theorem test_aHexLF :
    nextOf (exec .aHexLF (loading .address 0x12#32 0#8)) (fun t => (t.paddr, t.pseen, t.pstate)) = some (0x12F#32, true, .address) := by decide

/-- R149: the low nibble becomes 0. -/
theorem test_hHex07 :
    nextOf (exec (.hHex07 5#3) (loading .byteHighNibble 3#32 0xFF#8)) (fun t => (t.pbyte, t.pstate, t.pseen)) = some (0x50#8, .byteLowNibble, false) := by decide

/-- R149: the low nibble becomes 0. -/
theorem test_hHex89 :
    nextOf (exec (.hHex89 1#1) (loading .byteHighNibble 3#32 0xFF#8)) (fun t => (t.pbyte, t.pstate, t.pseen)) = some (0x90#8, .byteLowNibble, false) := by decide

/-- R149: the low nibble becomes 0. -/
theorem test_hHexUA :
    nextOf (exec .hHexUA (loading .byteHighNibble 3#32 0xFF#8)) (fun t => (t.pbyte, t.pstate, t.pseen)) = some (0xA0#8, .byteLowNibble, false) := by decide

/-- R149: the low nibble becomes 0. -/
theorem test_hHexUBUC :
    nextOf (exec (.hHexUBUC 1#1) (loading .byteHighNibble 3#32 0xFF#8)) (fun t => (t.pbyte, t.pstate, t.pseen)) = some (0xC0#8, .byteLowNibble, false) := by decide

/-- R149: the low nibble becomes 0. -/
theorem test_hHexUDUE :
    nextOf (exec (.hHexUDUE 0#1) (loading .byteHighNibble 3#32 0xFF#8)) (fun t => (t.pbyte, t.pstate, t.pseen)) = some (0xD0#8, .byteLowNibble, false) := by decide

/-- R149: the low nibble becomes 0. -/
theorem test_hHexUF :
    nextOf (exec .hHexUF (loading .byteHighNibble 3#32 0xFF#8)) (fun t => (t.pbyte, t.pstate, t.pseen)) = some (0xF0#8, .byteLowNibble, false) := by decide

/-- R149: the low nibble becomes 0. -/
theorem test_hHexLA :
    nextOf (exec .hHexLA (loading .byteHighNibble 3#32 0xFF#8)) (fun t => (t.pbyte, t.pstate, t.pseen)) = some (0xA0#8, .byteLowNibble, false) := by decide

/-- R149: the low nibble becomes 0. -/
theorem test_hHexLBLC :
    nextOf (exec (.hHexLBLC 0#1) (loading .byteHighNibble 3#32 0xFF#8)) (fun t => (t.pbyte, t.pstate, t.pseen)) = some (0xB0#8, .byteLowNibble, false) := by decide

/-- R149: the low nibble becomes 0. -/
theorem test_hHexLDLE :
    nextOf (exec (.hHexLDLE 1#1) (loading .byteHighNibble 3#32 0xFF#8)) (fun t => (t.pbyte, t.pstate, t.pseen)) = some (0xE0#8, .byteLowNibble, false) := by decide

/-- R149: the low nibble becomes 0. -/
theorem test_hHexLF :
    nextOf (exec .hHexLF (loading .byteHighNibble 3#32 0xFF#8)) (fun t => (t.pbyte, t.pstate, t.pseen)) = some (0xF0#8, .byteLowNibble, false) := by decide

/-- R153. -/
theorem test_lHex07 :
    nextOf (exec (.lHex07 5#3) (loading .byteLowNibble 3#32 0xA0#8)) (fun t => (t.imgByte 3, t.paddr, t.pcount, t.pstate)) = some (0xA5#8, 4#32, 1#32, .byteHighNibble) := by decide

/-- R153. -/
theorem test_lHex89 :
    nextOf (exec (.lHex89 1#1) (loading .byteLowNibble 3#32 0xA0#8)) (fun t => (t.imgByte 3, t.paddr, t.pcount, t.pstate)) = some (0xA9#8, 4#32, 1#32, .byteHighNibble) := by decide

/-- R153. -/
theorem test_lHexUA :
    nextOf (exec .lHexUA (loading .byteLowNibble 3#32 0xA0#8)) (fun t => (t.imgByte 3, t.paddr, t.pcount, t.pstate)) = some (0xAA#8, 4#32, 1#32, .byteHighNibble) := by decide

/-- R153. -/
theorem test_lHexUBUC :
    nextOf (exec (.lHexUBUC 1#1) (loading .byteLowNibble 3#32 0xA0#8)) (fun t => (t.imgByte 3, t.paddr, t.pcount, t.pstate)) = some (0xAC#8, 4#32, 1#32, .byteHighNibble) := by decide

/-- R153. -/
theorem test_lHexUDUE :
    nextOf (exec (.lHexUDUE 0#1) (loading .byteLowNibble 3#32 0xA0#8)) (fun t => (t.imgByte 3, t.paddr, t.pcount, t.pstate)) = some (0xAD#8, 4#32, 1#32, .byteHighNibble) := by decide

/-- R153. -/
theorem test_lHexUF :
    nextOf (exec .lHexUF (loading .byteLowNibble 3#32 0xA0#8)) (fun t => (t.imgByte 3, t.paddr, t.pcount, t.pstate)) = some (0xAF#8, 4#32, 1#32, .byteHighNibble) := by decide

/-- R153. -/
theorem test_lHexLA :
    nextOf (exec .lHexLA (loading .byteLowNibble 3#32 0xA0#8)) (fun t => (t.imgByte 3, t.paddr, t.pcount, t.pstate)) = some (0xAA#8, 4#32, 1#32, .byteHighNibble) := by decide

/-- R153. -/
theorem test_lHexLBLC :
    nextOf (exec (.lHexLBLC 0#1) (loading .byteLowNibble 3#32 0xA0#8)) (fun t => (t.imgByte 3, t.paddr, t.pcount, t.pstate)) = some (0xAB#8, 4#32, 1#32, .byteHighNibble) := by decide

/-- R153. -/
theorem test_lHexLDLE :
    nextOf (exec (.lHexLDLE 1#1) (loading .byteLowNibble 3#32 0xA0#8)) (fun t => (t.imgByte 3, t.paddr, t.pcount, t.pstate)) = some (0xAE#8, 4#32, 1#32, .byteHighNibble) := by decide

/-- R153. -/
theorem test_lHexLF :
    nextOf (exec .lHexLF (loading .byteLowNibble 3#32 0xA0#8)) (fun t => (t.imgByte 3, t.paddr, t.pcount, t.pstate)) = some (0xAF#8, 4#32, 1#32, .byteHighNibble) := by decide

/-- V38: the last index inside the window. -/
theorem test_lHex07_last_index :
    nextOf (exec (.lHex07 1#3) (loading .byteLowNibble 15#32 0#8)) (fun t => (t.imgByte 15, t.paddr, t.unit)) = some (0x01#8, 16#32, .load) := by decide

/-- V38, V47: the first address past the window, and one below it. -/
theorem test_lHex07_range :
    nextOf (exec (.lHex07 2#3) (loading .byteLowNibble 16#32 0#8)) (fun t => (t.pstatus, t.paddr, t.pbyte, t.pstate)) = some (.stRange, 16#32, 0x02#8, .byteLowNibble) ∧
    nextOf (exec (.lHex07 7#3) { loading .byteLowNibble 15#32 0xF0#8 with pstart := 16#32, pend := 32#32 }) (fun t => (t.pstatus, t.pcount)) =
      some (.stRange, 0#32) := by decide

/-- R144, R150, R154. -/
theorem test_aSp :
    nextOf (exec .aSp (loading .address 3#32 0x50#8)) (fun t => t) = some (loading .address 3#32 0x50#8) := by decide

/-- R144, R150, R154. -/
theorem test_hSp :
    nextOf (exec .hSp (loading .byteHighNibble 3#32 0x50#8)) (fun t => t) = some (loading .byteHighNibble 3#32 0x50#8) := by decide

/-- R144, R150, R154. -/
theorem test_lSp :
    nextOf (exec .lSp (loading .byteLowNibble 3#32 0x50#8)) (fun t => t) = some (loading .byteLowNibble 3#32 0x50#8) := by decide

/-- R145. -/
theorem test_aColon :
    nextOf (exec .aColon (loading .address 0x10#32 0#8)) (fun t => (t.pstate, t.paddr)) = some (.byteHighNibble, 0x10#32) := by decide

/-- V39: a colon in a byte state is an illegal character. -/
theorem test_hColon :
    nextOf (exec .hColon (loading .byteHighNibble 1#32 0#8)) (fun t => (t.pstatus, t.perrch, t.unit, t.pstate)) = some (.stSyntax, 0x3A#8, .idle, .byteHighNibble) := by decide

/-- V39: a colon in a byte state is an illegal character. -/
theorem test_lColon :
    nextOf (exec .lColon (loading .byteLowNibble 1#32 0#8)) (fun t => (t.pstatus, t.perrch, t.unit, t.pstate)) = some (.stSyntax, 0x3A#8, .idle, .byteLowNibble) := by decide

/-- V31 and V33. -/
theorem test_aLt :
    nextOf (exec .aLt (loading .address 0#32 0#8)) (fun t => (t.unit, t.pstatus)) = some (.load, .stNone) ∧
    nextOf (exec .aLt { loading .address 0#32 0#8 with pseen := true }) (fun t => (t.unit, t.pstatus)) = some (.idle, .stOk) := by decide

/-- R151, V35. -/
theorem test_hLt :
    nextOf (exec .hLt (loading .byteHighNibble 0x10#32 0#8)) (fun t => (t.paddr, t.pstate, t.unit)) = some (0#32, .address, .load) := by decide

/-- V36. -/
theorem test_lLt :
    nextOf (exec .lLt (loading .byteLowNibble 0#32 0#8)) (fun t => (t.pstatus, t.unit, t.imgByte 0)) = some (.stTrunc, .idle, 0x01#8) := by decide

/-- S2. -/
theorem test_aOther :
    nextOf (exec (.aOther 0x47#8) (loading .address 1#32 0#8)) (fun t => (t.pstatus, t.perrch, t.unit)) = some (.stSyntax, 0x47#8, .idle) := by decide

/-- V40. -/
theorem test_hOther :
    nextOf (exec (.hOther 0x0D#8) (loading .byteHighNibble 1#32 0#8)) (fun t => (t.pstatus, t.perrch, t.unit)) = some (.stSyntax, 0x0D#8, .idle) := by decide

/-- V43. -/
theorem test_lOther :
    nextOf (exec (.lOther 0x67#8) (loading .byteLowNibble 1#32 0#8)) (fun t => (t.pstatus, t.perrch, t.unit)) = some (.stSyntax, 0x67#8, .idle) := by decide

/-- V70. -/
theorem test_nop :
    nextOf (exec .nop idle) (fun t => t) = some idle := by decide

/-- V72, S5. -/
theorem test_crc :
    nextOf (exec .crc (withArgs 2048#32 7#32)) (fun t => (t.unit, t.clen, t.crem, t.cphase)) = some (.crc, 2048#32, 2048#32, .cData) ∧
    nextOf (exec .crc (withArgs 0#32 7#32)) (fun t => (t.unit, t.cphase)) = some (.crc, .cLen) := by decide

/-- V71. -/
theorem test_crc_refused :
    refusalOf (exec .crc (withArgs 2049#32 0#32)) = some .invalidCrc := by decide

/-- V75; R140. -/
theorem test_load :
    nextOf (exec .load (withArgs 0x1000#32 0x1800#32)) (fun t => (t.unit, t.pstart, t.pend)) = some (.load, 0x1000#32, 0x1800#32) ∧
    nextOf (exec .load { withArgs 0#32 16#32 with pseen := true, paddr := 7#32, pcount := 3#32, pstatus := .stRange })
      (fun t => (t.pseen, t.paddr, t.pcount, t.pstatus)) = some (false, 0#32, 0#32, .stNone) := by decide

/-- V73, V74. -/
theorem test_load_refused :
    refusalOf (exec .load (withArgs 16#32 0#32)) = some .invalidLoad ∧
    refusalOf (exec .load (withArgs 0#32 2049#32)) = some .invalidLoad := by decide

/-- V76, V60. -/
theorem test_dump :
    nextOf (exec .dump (withArgs 0#32 32#32)) (fun t => (t.unit, t.sline, t.send, t.spos)) = some (.dump, 0#32, 32#32, 0) ∧
    nextOf (exec .dump (withArgs 16#32 16#32)) (fun t => (t.unit, t.output)) = some (.idle, []) := by decide

/-- V65, V76: an end or a start off the grid, and an end above 2^24. -/
theorem test_dump_refused :
    refusalOf (exec .dump (withArgs 0#32 24#32)) = some .invalidDump ∧
    refusalOf (exec .dump (withArgs 8#32 24#32)) = some .invalidDump ∧
    refusalOf (exec .dump (withArgs 0xFFFFF0#32 0x1000010#32)) = some .invalidDump := by decide

/-- V77. -/
theorem test_busy_refused :
    refusalOf (exec .nop (loading .address 0#32 0#8)) = some .busy ∧
    refusalOf (exec .dump (summing .cData 1#32 0#32 1#32)) = some .busy := by decide

/-- V63: `001ff0`. -/
theorem test_sAddr :
    nextOf (exec (.sAddr 3) (dumping 0x1FF0#32 3)) (fun t => (t.output, t.spos)) = some ([0x66#8], 4) ∧
    nextOf (exec (.sAddr 5) (dumping 0x10#32 5)) (fun t => (t.output, t.spos)) = some ([0x30#8], 6) := by decide

/-- R127. -/
theorem test_sColon :
    nextOf (exec .sColon (dumping 0#32 6)) (fun t => (t.output, t.spos)) = some ([0x3A#8], 7) := by decide

/-- V61; V64: the index is window-relative. -/
theorem test_sSpace :
    nextOf (exec (.sSpace 1) (dumping 0#32 10)) (fun t => (t.output, t.sbyte, t.spos)) = some ([0x20#8], 0x02#8, 11) ∧
    nextOf (exec (.sSpace 3) { dumping 16#32 16 with sstart := 16#32 }) (fun t => (t.sbyte, t.spos)) = some (0x04#8, 17) := by decide

/-- R129. -/
theorem test_sHi :
    nextOf (exec (.sHi 15) { dumping 0#32 53 with sbyte := 0xA5#8 }) (fun t => (t.output, t.spos)) = some ([0x61#8], 54) := by decide

/-- R130. -/
theorem test_sLo :
    nextOf (exec (.sLo 15) { dumping 0#32 54 with sbyte := 0xA5#8 }) (fun t => (t.output, t.spos)) = some ([0x35#8], 55) := by decide

/-- R131: the last line and a line before it. -/
theorem test_sEol :
    nextOf (exec .sEol (dumping 16#32 55)) (fun t => (t.output, t.unit)) = some ([0x0A#8], .idle) ∧
    nextOf (exec .sEol (dumping 0#32 55)) (fun t => (t.sline, t.spos, t.unit)) = some (16#32, 0, .dump) := by decide

/-- R240. -/
theorem test_full_sink_waits :
    nextOf (exec .sColon { dumping 0#32 6 with sinkRoom := some 0 }) (fun t => (t.output, t.spos, t.unit)) = some ([], 6, .dump) := by decide

/-- R185. -/
theorem test_cByte :
    nextOf (exec .cByte (summing .cData 2#32 0#32 2#32)) (fun t => (t.crc, t.cidx, t.cphase)) = some (0x04C11DB7#32, 1#32, .cData) ∧
    nextOf (exec .cByte (summing .cData 2#32 1#32 2#32)) (fun t => (t.cidx, t.cphase)) = some (2#32, .cLen) := by decide

/-- S4: after the length byte 0x34. -/
theorem test_cLen :
    nextOf (exec .cLen (summing .cLen 0x1234#32 0x1234#32 0x1234#32)) (fun t => (t.crc, t.crem)) = some (0xC7361B4C#32, 0x12#32) := by decide

/-- R187, S4. -/
theorem test_cFin :
    nextOf (exec .cFin { summing .cLen 0#32 0#32 0#32 with crc := 0x30456C82#32 }) (fun t => (t.crcOut, t.cphase, t.unit)) =
      some (0x30456C82#32, .cDone, .idle) := by decide

/-- R107 (log 9). -/
theorem test_not_enabled :
    refusalOf (exec .cLen (summing .cLen 1#32 1#32 0#32)) = some .notEnabled ∧
    refusalOf (exec .cFin (summing .cLen 1#32 1#32 1#32)) = some .notEnabled ∧
    refusalOf (exec .sColon (dumping 0#32 5)) = some .notEnabled ∧
    refusalOf (exec .hSp (loading .address 0#32 0#8)) = some .notEnabled := by decide

/-! ## Step, fetch and the host -/

/-- P3: `R` ends the load; the rest stays in the stream (R238). -/
theorem test_step_takes_one_symbol :
    nextOf (step (fed (loading .address 0#32 0#8) [0x052#9, 0x042#9])) (fun t => (t.perrch, t.input)) = some (0x52#8, [0x042#9]) := by decide

/-- V41. -/
theorem test_step_ended_source :
    nextOf (step { loading .byteHighNibble 0#32 0#8 with inputEnded := true }) (fun t => (t.pstatus, t.unit)) = some (.stUnknown, .idle) := by decide

/-- R240, R230. -/
theorem test_step_waits :
    nextOf (step (loading .address 0#32 0#8)) (fun t => t) = some (loading .address 0#32 0#8) ∧
    nextOf (step idle) (fun t => t) = some idle := by decide

/-- R35. -/
theorem test_step_host :
    nextOf (step { idle with host := [.argA 5#32, .cmd 1#2] }) (fun t => (t.argA, t.host, t.unit)) = some (5#32, [.cmd 1#2], .idle) := by decide

/-- R101. -/
theorem test_step_command :
    nextOf (step { withArgs 4#32 0#32 with host := [.cmd 1#2] }) (fun t => (t.unit, t.host)) = some (.crc, []) := by decide

/-- R35, R22, R31. -/
theorem test_host_reads :
    hostRead .busy (loading .address 0#32 0#8) = 1#32 ∧
    hostRead .unit (dumping 0#32 0) = 3#32 ∧
    hostRead .ldStatus { idle with pstatus := .stTrunc } = 4#32 ∧
    hostRead .ldErrch { idle with perrch := 0x47#8 } = 0x47#32 := by decide

/-- R7. -/
theorem test_reset_of_both_variants :
    (State.resetOf .readOnly).capacity = 2048 ∧
    (State.resetOf .readWrite).capacity = 8192 ∧
    State.reset = State.resetOf .readOnly := ⟨rfl, rfl, rfl⟩

/-- R7, S3: the size of the 8192-byte image and its last index. -/
theorem test_read_write_variant :
    nextOf (exec .crc { withArgs 8192#32 0#32 with variant := .readWrite }) (fun t => t.unit) = some .crc ∧
    refusalOf (exec .crc { withArgs 8193#32 0#32 with variant := .readWrite }) = some .invalidCrc ∧
    nextOf (exec .lHexUA { loading .byteLowNibble 0x1FFF#32 0x00#8 with variant := .readWrite, pend := 0x2000#32 })
      (fun t => t.imgByte 0x1FFF) = some 0x0A#8 := by decide

/-- R79. -/
theorem test_line_geometry :
    Config.lineChars = 56 ∧
    posAddr 5 = 5 ∧
    posColon = 6 ∧
    posSpace 0 = 7 ∧
    posLo 15 = 54 ∧
    posEol = 55 := by decide

/-- Log 14: `5` in each parser state, LOAD, the colon of a dump line, C.FIN. -/
theorem test_placed_words_run_after_reset :
    nextOf (step (State.reset.withFetchWord 16 0x035)) (fun t => (t.paddr, t.pseen)) = some (5#32, true) ∧
    nextOf (step (State.reset.withFetchWord 16 0x235)) (fun t => (t.pbyte, t.pstate)) = some (0x50#8, .byteLowNibble) ∧
    nextOf (step (State.reset.withFetchWord 16 0x435)) (fun t => (t.imgByte 0, t.pcount)) = some (0x05#8, 1#32) ∧
    nextOf (step (State.reset.withFetchWord 8 2)) (fun t => t.unit) = some .load ∧
    nextOf (step (State.reset.withFetchWord 8 0x46)) (fun t => t.output) = some [0x3A#8] ∧
    nextOf (step (State.reset.withFetchWord 8 0x81)) (fun t => t.cphase) = some .cDone := ⟨rfl, rfl, rfl, rfl, rfl, rfl⟩

/-! ## Witnesses: states and operands that meet the hypotheses of each obligation, each clause at its boundary values -/

theorem witness_DecodeOfEncodeIsIdentity :
    (Instr.lOther 0x0D#8).wf = true ∧
    (Instr.sLo 15).wf = true := by decide

theorem witness_EncodeRecoversTheDecodedItem :
    decode (.spos 55#6) = .ok .sEol ∧ (∀ ch, Instr.sEol ≠ .pEof ch) ∧ Instr.sEol ≠ .cByte := ⟨rfl, fun _ h => Instr.noConfusion h, by decide⟩

theorem witness_DecodedInstructionsAreWellFormed :
    decode (.sym .address 0x02F#9) = .ok (.aOther 0x2F#8) ∧
    decode (.sym .byteLowNibble 0x0FF#9) = .ok (.lOther 0xFF#8) := ⟨rfl, rfl⟩

theorem witness_HexDigitsConvertBothWays :
    isHexDigit 0x30#8 ∧
    isHexDigit 0x39#8 ∧
    isHexDigit 0x41#8 ∧
    isHexDigit 0x66#8 ∧
    (9#4).toNat < 10 ∧
    10 ≤ (10#4).toNat := by decide

theorem witness_StepRunsTheDecodedInstruction :
    fetch (fed (loading .address 0#32 0#8) [0x03A#9]) = .item (.sym .address 0x03A#9) (fed (loading .address 0#32 0#8) []) ∧
    decode (.sym .address 0x03A#9) = .ok .aColon ∧ Instr.aColon.wf = true := ⟨rfl, rfl, rfl⟩

theorem witness_OnlyTheRunningUnitSteps :
    ({ idle with host := [.cmd 3#2] } : State).unit = .idle ∧ ({ idle with host := [.cmd 3#2] } : State).host = [.cmd 3#2] ∧
    (fed (loading .address 0#32 0#8) [0x1FF#9]).unit = .load ∧ (fed (loading .address 0#32 0#8) [0x1FF#9]).input = [0x1FF#9] ∧
    ({ loading .address 0#32 0#8 with inputEnded := true } : State).input = [] ∧ ({ loading .address 0#32 0#8 with inputEnded := true } : State).inputEnded = true ∧
    (dumping 0#32 5).unit = .dump ∧ (dumping 0#32 5).spos = posAddr 5 ∧
    (dumping 0#32 6).spos = 6 ∧
    (dumping 0#32 7).spos.val = 7 + 3 * (0 : Fin 16).val ∧
    (dumping 0#32 52).spos.val = 7 + 3 * (15 : Fin 16).val ∧
    (dumping 0#32 53).spos.val = 8 + 3 * (15 : Fin 16).val ∧
    (dumping 0#32 54).spos.val = 9 + 3 * (15 : Fin 16).val ∧
    (dumping 0#32 55).spos = 55 ∧
    (summing .cData 1#32 0#32 1#32).unit = .crc ∧ (summing .cData 1#32 0#32 1#32).cphase = .cData ∧
    (summing .cLen 1#32 1#32 1#32).cphase = .cLen ∧ (summing .cLen 1#32 1#32 1#32).crem ≠ 0#32 ∧
    (summing .cLen 1#32 1#32 0#32).cphase = .cLen ∧ (summing .cLen 1#32 1#32 0#32).crem = 0#32 := by decide

theorem witness_WaitingKeepsAllState :
    idle.unit = .idle ∧ idle.host = [] ∧
    (loading .address 0#32 0#8).unit = .load ∧ (loading .address 0#32 0#8).input = [] ∧ (loading .address 0#32 0#8).inputEnded = false ∧
    ({ dumping 0#32 55 with sinkRoom := some 0 } : State).unit = .dump ∧ ({ dumping 0#32 55 with sinkRoom := some 0 } : State).sinkRoom = some 0 ∧
    decode (.spos (sposCode 55)) = .ok .sEol := ⟨rfl, rfl, rfl, rfl, rfl, rfl, rfl, rfl⟩

theorem witness_HostWritesOperandRegisters :
    ({ idle with host := [.argA 0xFFFFFFFF#32] } : State).unit = .idle ∧ ({ idle with host := [.argA 0xFFFFFFFF#32] } : State).host = [.argA 0xFFFFFFFF#32] ∧
    ({ idle with host := [.argB 0#32] } : State).unit = .idle ∧ ({ idle with host := [.argB 0#32] } : State).host = [.argB 0#32] := by decide

theorem witness_NopChangesNothing :
    idle.unit = .idle := by decide

/-- The largest and the smallest length. -/
theorem witness_CrcCommandStartsUnit :
    (withArgs 2048#32 0#32).unit = .idle ∧ (withArgs 2048#32 0#32).argA.toNat ≤ (withArgs 2048#32 0#32).capacity ∧
    (withArgs 0#32 0#32).argA.toNat ≤ (withArgs 0#32 0#32).capacity := by decide

/-- A window as large as the image at the top of the addresses. -/
theorem witness_LoadCommandInitialisesParser :
    (withArgs 0xFFFFF7FF#32 0xFFFFFFFF#32).unit = .idle ∧
    (withArgs 0xFFFFF7FF#32 0xFFFFFFFF#32).argA.toNat ≤ (withArgs 0xFFFFF7FF#32 0xFFFFFFFF#32).argB.toNat ∧
    (withArgs 0xFFFFF7FF#32 0xFFFFFFFF#32).argB.toNat - (withArgs 0xFFFFF7FF#32 0xFFFFFFFF#32).argA.toNat ≤
      (withArgs 0xFFFFF7FF#32 0xFFFFFFFF#32).capacity := by decide

/-- The last window the addresses allow, and an empty one. -/
theorem witness_DumpCommandStartsOrEndsAtOnce :
    (withArgs 0xFFF800#32 0x1000000#32).unit = .idle ∧
    dumpValid (withArgs 0xFFF800#32 0x1000000#32).capacity 0xFFF800#32 0x1000000#32 ∧
    dumpValid (withArgs 16#32 16#32).capacity 16#32 16#32 := by decide

/-- Each clause: `len` above the capacity, a window too large, reversed ends, an end off the grid, an end above 2^24. -/
theorem witness_InvalidOperandsAreRefused :
    idle.unit = .idle ∧
    idle.capacity < (2049#32 : Word).toNat ∧
    idle.capacity < (2049#32 : Word).toNat - (0#32 : Word).toNat ∧
    (0#32 : Word).toNat < (16#32 : Word).toNat ∧
    (24#32 : Word).toNat % 16 ≠ 0 ∧
    0x1000000 < (0x1000010#32 : Word).toNat := by decide

/-- Each selector, failing and holding. -/
theorem witness_UnselectedStepsAreRefused :
    isCommand .nop = true ∧ (loading .address 0#32 0#8).unit ≠ .idle ∧ idle.unit = .idle ∧
    idle.unit ≠ .load ∧ (loading .address 0#32 0#8).unit = .load ∧
    rowState .aSp = some .address ∧ ¬ ((loading .byteHighNibble 0#32 0#8).unit = .load ∧ (loading .byteHighNibble 0#32 0#8).pstate = .address) ∧
    rowState .lHexLF = some .byteLowNibble ∧ (loading .byteLowNibble 0#32 0#8).pstate = .byteLowNibble ∧
    rowPos .sEol = some 55 ∧ ¬ ((dumping 0#32 54).unit = .dump ∧ (dumping 0#32 54).spos = 55) ∧ (dumping 0#32 55).spos = 55 ∧
    ¬ ((summing .cLen 1#32 1#32 1#32).unit = .crc ∧ (summing .cLen 1#32 1#32 1#32).cphase = .cData) ∧
    (summing .cLen 1#32 1#32 0#32).cphase = .cLen ∧ ¬ (summing .cLen 1#32 1#32 0#32).crem ≠ 0#32 ∧
    (summing .cLen 1#32 1#32 1#32).cphase = .cLen ∧ ¬ (summing .cLen 1#32 1#32 1#32).crem = 0#32 ∧
    isParserStep .lLt = true ∧ isSerializerStep .sColon = true ∧ isCrcStep .cFin = true := by decide

theorem witness_SentinelEndsTheLoad :
    (loading .address 0xFFFFFFFF#32 0#8).unit = .load ∧ (loading .address 0xFFFFFFFF#32 0#8).pstate = .address ∧
    (loading .byteLowNibble 15#32 0xA0#8).unit = .load ∧ (loading .byteLowNibble 15#32 0xA0#8).pstate = .byteLowNibble ∧
    (fed (loading .byteHighNibble 15#32 0xFF#8) [0x100#9, 0x041#9]).unit = .load ∧ (fed (loading .byteHighNibble 15#32 0xFF#8) [0x100#9, 0x041#9]).input = [0x100#9, 0x041#9] ∧ classify 0x100#9 = .eof ∧
    (fed (loading .byteLowNibble 15#32 0xA0#8) [0x1FF#9, 0x041#9]).unit = .load ∧ (fed (loading .byteLowNibble 15#32 0xA0#8) [0x1FF#9, 0x041#9]).input = [0x1FF#9, 0x041#9] ∧ classify 0x1FF#9 = .eof := by decide

theorem witness_AddressDigitShiftsIn :
    (loading .address 0xFFFFFFFF#32 0#8).unit = .load ∧ (loading .address 0xFFFFFFFF#32 0#8).pstate = .address ∧
    (fed (loading .address 0xFFFFFFFF#32 0#8) [0x066#9, 0x041#9]).unit = .load ∧ (fed (loading .address 0xFFFFFFFF#32 0#8) [0x066#9, 0x041#9]).input = [0x066#9, 0x041#9] ∧
      (fed (loading .address 0xFFFFFFFF#32 0#8) [0x066#9, 0x041#9]).pstate = .address ∧ classify 0x066#9 = .hex ∧
    (fed (loading .address 0xFFFFFFFF#32 0#8) [0x030#9, 0x041#9]).unit = .load ∧ (fed (loading .address 0xFFFFFFFF#32 0#8) [0x030#9, 0x041#9]).input = [0x030#9, 0x041#9] ∧
      (fed (loading .address 0xFFFFFFFF#32 0#8) [0x030#9, 0x041#9]).pstate = .address ∧ classify 0x030#9 = .hex := by decide

theorem witness_SpacesAreIgnored :
    (loading .address 0xFFFFFFFF#32 0#8).unit = .load ∧ (loading .address 0xFFFFFFFF#32 0#8).pstate = .address ∧
    (loading .byteHighNibble 15#32 0xFF#8).unit = .load ∧ (loading .byteHighNibble 15#32 0xFF#8).pstate = .byteHighNibble ∧
    (loading .byteLowNibble 15#32 0xA0#8).unit = .load ∧ (loading .byteLowNibble 15#32 0xA0#8).pstate = .byteLowNibble ∧
    (fed (loading .byteLowNibble 15#32 0xA0#8) [0x020#9, 0x041#9]).unit = .load ∧ (fed (loading .byteLowNibble 15#32 0xA0#8) [0x020#9, 0x041#9]).input = [0x020#9, 0x041#9] := by decide

theorem witness_ColonStartsTheBytes :
    (loading .address 0xFFFFFFFF#32 0#8).unit = .load ∧ (loading .address 0xFFFFFFFF#32 0#8).pstate = .address ∧
    (fed (loading .address 0xFFFFFFFF#32 0#8) [0x03A#9, 0x041#9]).unit = .load ∧ (fed (loading .address 0xFFFFFFFF#32 0#8) [0x03A#9, 0x041#9]).input = [0x03A#9, 0x041#9] ∧
      (fed (loading .address 0xFFFFFFFF#32 0#8) [0x03A#9, 0x041#9]).pstate = .address := by decide

theorem witness_BlankLineSkipsOrEnds :
    (loading .address 0xFFFFFFFF#32 0#8).unit = .load ∧ (loading .address 0xFFFFFFFF#32 0#8).pstate = .address ∧
    (fed (loading .address 0xFFFFFFFF#32 0#8) [0x00A#9, 0x041#9]).unit = .load ∧ (fed (loading .address 0xFFFFFFFF#32 0#8) [0x00A#9, 0x041#9]).input = [0x00A#9, 0x041#9] ∧
      (fed (loading .address 0xFFFFFFFF#32 0#8) [0x00A#9, 0x041#9]).pstate = .address ∧
    (loading .address 0xFFFFFFFF#32 0#8).pseen = false ∧
    ({ loading .address 0#32 0#8 with pseen := true } : State).pseen = true := by decide

theorem witness_IllegalCharacterInAddress :
    (loading .address 0xFFFFFFFF#32 0#8).unit = .load ∧ (loading .address 0xFFFFFFFF#32 0#8).pstate = .address ∧
    (fed (loading .address 0xFFFFFFFF#32 0#8) [0x02F#9, 0x041#9]).unit = .load ∧ (fed (loading .address 0xFFFFFFFF#32 0#8) [0x02F#9, 0x041#9]).input = [0x02F#9, 0x041#9] ∧
      (fed (loading .address 0xFFFFFFFF#32 0#8) [0x02F#9, 0x041#9]).pstate = .address ∧ classify 0x02F#9 = .other ∧
    (fed (loading .address 0xFFFFFFFF#32 0#8) [0x0FF#9, 0x041#9]).unit = .load ∧ (fed (loading .address 0xFFFFFFFF#32 0#8) [0x0FF#9, 0x041#9]).input = [0x0FF#9, 0x041#9] ∧
      (fed (loading .address 0xFFFFFFFF#32 0#8) [0x0FF#9, 0x041#9]).pstate = .address ∧ classify 0x0FF#9 = .other := by decide

theorem witness_FirstDigitIsHighNibble :
    (loading .byteHighNibble 15#32 0xFF#8).unit = .load ∧ (loading .byteHighNibble 15#32 0xFF#8).pstate = .byteHighNibble ∧
    (fed (loading .byteHighNibble 15#32 0xFF#8) [0x046#9, 0x041#9]).unit = .load ∧ (fed (loading .byteHighNibble 15#32 0xFF#8) [0x046#9, 0x041#9]).input = [0x046#9, 0x041#9] ∧
      (fed (loading .byteHighNibble 15#32 0xFF#8) [0x046#9, 0x041#9]).pstate = .byteHighNibble ∧ classify 0x046#9 = .hex ∧
    (fed (loading .byteHighNibble 15#32 0xFF#8) [0x030#9, 0x041#9]).unit = .load ∧ (fed (loading .byteHighNibble 15#32 0xFF#8) [0x030#9, 0x041#9]).input = [0x030#9, 0x041#9] ∧
      (fed (loading .byteHighNibble 15#32 0xFF#8) [0x030#9, 0x041#9]).pstate = .byteHighNibble ∧ classify 0x030#9 = .hex := by decide

theorem witness_LineEndForgetsTheAddress :
    (loading .byteHighNibble 15#32 0xFF#8).unit = .load ∧ (loading .byteHighNibble 15#32 0xFF#8).pstate = .byteHighNibble ∧
    (fed (loading .byteHighNibble 15#32 0xFF#8) [0x00A#9, 0x041#9]).unit = .load ∧ (fed (loading .byteHighNibble 15#32 0xFF#8) [0x00A#9, 0x041#9]).input = [0x00A#9, 0x041#9] ∧
      (fed (loading .byteHighNibble 15#32 0xFF#8) [0x00A#9, 0x041#9]).pstate = .byteHighNibble := by decide

theorem witness_IllegalCharacterBeforeByte :
    (loading .byteHighNibble 15#32 0xFF#8).unit = .load ∧ (loading .byteHighNibble 15#32 0xFF#8).pstate = .byteHighNibble ∧
    (fed (loading .byteHighNibble 15#32 0xFF#8) [0x03A#9, 0x041#9]).unit = .load ∧ (fed (loading .byteHighNibble 15#32 0xFF#8) [0x03A#9, 0x041#9]).input = [0x03A#9, 0x041#9] ∧
      (fed (loading .byteHighNibble 15#32 0xFF#8) [0x03A#9, 0x041#9]).pstate = .byteHighNibble ∧ classify 0x03A#9 = .colon ∧
    (fed (loading .byteHighNibble 15#32 0xFF#8) [0x00D#9, 0x041#9]).unit = .load ∧ (fed (loading .byteHighNibble 15#32 0xFF#8) [0x00D#9, 0x041#9]).input = [0x00D#9, 0x041#9] ∧
      (fed (loading .byteHighNibble 15#32 0xFF#8) [0x00D#9, 0x041#9]).pstate = .byteHighNibble ∧ classify 0x00D#9 = .other := by decide

/-- The last and the first address of the window, the first past it and the last below it. -/
theorem witness_SecondDigitStoresOrRangeError :
    (loading .byteLowNibble 15#32 0xA0#8).unit = .load ∧ (loading .byteLowNibble 15#32 0xA0#8).pstate = .byteLowNibble ∧
      (loading .byteLowNibble 15#32 0xA0#8).pend.toNat - (loading .byteLowNibble 15#32 0xA0#8).pstart.toNat ≤ (loading .byteLowNibble 15#32 0xA0#8).capacity ∧ (loading .byteLowNibble 15#32 0xA0#8).pstart.toNat ≤ (loading .byteLowNibble 15#32 0xA0#8).paddr.toNat ∧ (loading .byteLowNibble 15#32 0xA0#8).paddr.toNat < (loading .byteLowNibble 15#32 0xA0#8).pend.toNat ∧
    (loading .byteLowNibble 0#32 0x00#8).unit = .load ∧ (loading .byteLowNibble 0#32 0x00#8).pstate = .byteLowNibble ∧
      (loading .byteLowNibble 0#32 0x00#8).pend.toNat - (loading .byteLowNibble 0#32 0x00#8).pstart.toNat ≤ (loading .byteLowNibble 0#32 0x00#8).capacity ∧ (loading .byteLowNibble 0#32 0x00#8).pstart.toNat ≤ (loading .byteLowNibble 0#32 0x00#8).paddr.toNat ∧ (loading .byteLowNibble 0#32 0x00#8).paddr.toNat < (loading .byteLowNibble 0#32 0x00#8).pend.toNat ∧
    (fed (loading .byteLowNibble 15#32 0xA0#8) [0x039#9]).input = [0x039#9] ∧ classify 0x039#9 = .hex ∧ (fed (loading .byteLowNibble 15#32 0xA0#8) [0x039#9]).unit = .load ∧ (fed (loading .byteLowNibble 15#32 0xA0#8) [0x039#9]).pstate = .byteLowNibble ∧
      (fed (loading .byteLowNibble 15#32 0xA0#8) [0x039#9]).pend.toNat - (fed (loading .byteLowNibble 15#32 0xA0#8) [0x039#9]).pstart.toNat ≤ (fed (loading .byteLowNibble 15#32 0xA0#8) [0x039#9]).capacity ∧ (fed (loading .byteLowNibble 15#32 0xA0#8) [0x039#9]).pstart.toNat ≤ (fed (loading .byteLowNibble 15#32 0xA0#8) [0x039#9]).paddr.toNat ∧ (fed (loading .byteLowNibble 15#32 0xA0#8) [0x039#9]).paddr.toNat < (fed (loading .byteLowNibble 15#32 0xA0#8) [0x039#9]).pend.toNat ∧
    (loading .byteLowNibble 16#32 0xA0#8).unit = .load ∧ (loading .byteLowNibble 16#32 0xA0#8).pstate = .byteLowNibble ∧ (loading .byteLowNibble 16#32 0xA0#8).pend.toNat ≤ (loading .byteLowNibble 16#32 0xA0#8).paddr.toNat ∧
    ({ loading .byteLowNibble 15#32 0xA0#8 with pstart := 16#32, pend := 32#32 } : State).unit = .load ∧ ({ loading .byteLowNibble 15#32 0xA0#8 with pstart := 16#32, pend := 32#32 } : State).pstate = .byteLowNibble ∧
      ({ loading .byteLowNibble 15#32 0xA0#8 with pstart := 16#32, pend := 32#32 } : State).paddr.toNat < ({ loading .byteLowNibble 15#32 0xA0#8 with pstart := 16#32, pend := 32#32 } : State).pstart.toNat := by decide

theorem witness_LineEndInsideByteIsTruncation :
    (loading .byteLowNibble 15#32 0xA0#8).unit = .load ∧ (loading .byteLowNibble 15#32 0xA0#8).pstate = .byteLowNibble ∧
    (fed (loading .byteLowNibble 15#32 0xA0#8) [0x00A#9, 0x041#9]).unit = .load ∧ (fed (loading .byteLowNibble 15#32 0xA0#8) [0x00A#9, 0x041#9]).input = [0x00A#9, 0x041#9] ∧
      (fed (loading .byteLowNibble 15#32 0xA0#8) [0x00A#9, 0x041#9]).pstate = .byteLowNibble := by decide

theorem witness_IllegalCharacterInsideByte :
    (loading .byteLowNibble 15#32 0xA0#8).unit = .load ∧ (loading .byteLowNibble 15#32 0xA0#8).pstate = .byteLowNibble ∧
    (fed (loading .byteLowNibble 15#32 0xA0#8) [0x03A#9, 0x041#9]).unit = .load ∧ (fed (loading .byteLowNibble 15#32 0xA0#8) [0x03A#9, 0x041#9]).input = [0x03A#9, 0x041#9] ∧
      (fed (loading .byteLowNibble 15#32 0xA0#8) [0x03A#9, 0x041#9]).pstate = .byteLowNibble ∧ classify 0x03A#9 = .colon ∧
    (fed (loading .byteLowNibble 15#32 0xA0#8) [0x067#9, 0x041#9]).unit = .load ∧ (fed (loading .byteLowNibble 15#32 0xA0#8) [0x067#9, 0x041#9]).input = [0x067#9, 0x041#9] ∧
      (fed (loading .byteLowNibble 15#32 0xA0#8) [0x067#9, 0x041#9]).pstate = .byteLowNibble ∧ classify 0x067#9 = .other := by decide

theorem witness_AddressAndColonAreEmitted :
    (dumping 0#32 0).unit = .dump ∧ (dumping 0#32 0).sinkRoom ≠ some 0 ∧
    (dumping 0#32 0).spos.val = (0 : Fin 6).val ∧
    (dumping 0#32 5).spos.val = (5 : Fin 6).val ∧
    (dumping 0#32 5).unit = .dump ∧ (dumping 0#32 5).sinkRoom ≠ some 0 ∧
    (dumping 0#32 6).unit = .dump ∧ (dumping 0#32 6).sinkRoom ≠ some 0 ∧
    (dumping 0#32 6).spos = 6 ∧
    ({ dumping 0#32 6 with sinkRoom := some 1 } : State).sinkRoom ≠ some 0 := by decide

/-- The last byte of the image and the first. -/
theorem witness_SpaceIsEmittedAndByteLatched :
    (dumping 2032#32 52).unit = .dump ∧ (dumping 2032#32 52).spos.val = 7 + 3 * (15 : Fin 16).val ∧ (dumping 2032#32 52).sinkRoom ≠ some 0 ∧ (dumping 2032#32 52).sstart.toNat ≤ (dumping 2032#32 52).sline.toNat + 15 ∧
      (dumping 2032#32 52).sline.toNat + 15 - (dumping 2032#32 52).sstart.toNat < (dumping 2032#32 52).capacity ∧ (dumping 2032#32 52).sline.toNat + 15 < 2 ^ 32 ∧
    ({ dumping 16#32 7 with sstart := 16#32 } : State).unit = .dump ∧ ({ dumping 16#32 7 with sstart := 16#32 } : State).spos.val = 7 + 3 * (0 : Fin 16).val ∧ ({ dumping 16#32 7 with sstart := 16#32 } : State).sinkRoom ≠ some 0 ∧ ({ dumping 16#32 7 with sstart := 16#32 } : State).sstart.toNat ≤ ({ dumping 16#32 7 with sstart := 16#32 } : State).sline.toNat + 0 ∧
      ({ dumping 16#32 7 with sstart := 16#32 } : State).sline.toNat + 0 - ({ dumping 16#32 7 with sstart := 16#32 } : State).sstart.toNat < ({ dumping 16#32 7 with sstart := 16#32 } : State).capacity ∧ ({ dumping 16#32 7 with sstart := 16#32 } : State).sline.toNat + 0 < 2 ^ 32 := by decide

theorem witness_ByteDigitsAreEmitted :
    (dumping 0#32 8).unit = .dump ∧ (dumping 0#32 8).sinkRoom ≠ some 0 ∧
    (dumping 0#32 8).spos.val = 8 + 3 * (0 : Fin 16).val ∧
    (dumping 0#32 53).unit = .dump ∧ (dumping 0#32 53).sinkRoom ≠ some 0 ∧
    (dumping 0#32 53).spos.val = 8 + 3 * (15 : Fin 16).val ∧
    (dumping 0#32 9).unit = .dump ∧ (dumping 0#32 9).sinkRoom ≠ some 0 ∧
    (dumping 0#32 9).spos.val = 9 + 3 * (0 : Fin 16).val ∧
    (dumping 0#32 54).unit = .dump ∧ (dumping 0#32 54).sinkRoom ≠ some 0 ∧
    (dumping 0#32 54).spos.val = 9 + 3 * (15 : Fin 16).val := by decide

/-- A line before the last, and the last. -/
theorem witness_LineFeedEndsLineOrDump :
    (dumping 0#32 55).unit = .dump ∧ (dumping 0#32 55).sinkRoom ≠ some 0 ∧ (dumping 0#32 55).spos = 55 ∧ (dumping 0#32 55).sline.toNat + 16 < 2 ^ 32 ∧
    ¬ (dumping 0#32 55).send.toNat ≤ (dumping 0#32 55).sline.toNat + 16 ∧
    (dumping 16#32 55).send.toNat ≤ (dumping 16#32 55).sline.toNat + 16 := by decide

/-- The last byte of the image. -/
theorem witness_DataByteIsAbsorbed :
    (summing .cData 2048#32 2047#32 2048#32).unit = .crc ∧ (summing .cData 2048#32 2047#32 2048#32).cphase = .cData ∧ (summing .cData 2048#32 2047#32 2048#32).cidx.toNat < (summing .cData 2048#32 2047#32 2048#32).capacity ∧
    (summing .cData 2048#32 2047#32 2048#32).cidx + 1#32 = (summing .cData 2048#32 2047#32 2048#32).clen := by decide

theorem witness_LengthIsFoldedInThenDelivered :
    (summing .cLen 1#32 1#32 1#32).unit = .crc ∧ (summing .cLen 1#32 1#32 1#32).cphase = .cLen ∧ (summing .cLen 1#32 1#32 1#32).crem ≠ 0#32 ∧
    (summing .cLen 0#32 0#32 0#32).unit = .crc ∧ (summing .cLen 0#32 0#32 0#32).cphase = .cLen ∧ (summing .cLen 0#32 0#32 0#32).crem = 0#32 := by decide

/-! Witnesses with a next state: the state is given, the next state is what `exec` or `step` answers. -/

theorem witness_OnlySecondDigitWritesImage :
    isLHex .cByte = false ∧
    (∃ t, exec .cByte (summing .cData 1#32 0#32 1#32) = .next t) ∧
    isLHex .load = false ∧
    (∃ t, exec .load (withArgs 0#32 0#32) = .next t) := ⟨rfl, ⟨_, rfl⟩, rfl, ⟨_, rfl⟩⟩

/-- A store and a range error. -/
theorem witness_SecondDigitFrame :
    isLHex .lHexLF = true ∧
    (∃ t, exec .lHexLF (loading .byteLowNibble 15#32 0xA0#8) = .next t) ∧
    (∃ t, exec .lHexLF (loading .byteLowNibble 16#32 0xA0#8) = .next t) := ⟨rfl, ⟨_, rfl⟩, ⟨_, rfl⟩⟩

theorem witness_ParserStepFrame :
    isParserStep (.pEof 0#8) = true ∧
    (∃ t, exec (.pEof 0#8) (loading .address 0xFFFFFFFF#32 0#8) = .next t) ∧
    isParserStep .lHexLF = true ∧
    (∃ t, exec .lHexLF (loading .byteLowNibble 15#32 0xA0#8) = .next t) := ⟨rfl, ⟨_, rfl⟩, rfl, ⟨_, rfl⟩⟩

theorem witness_SerializerStepFrame :
    isSerializerStep .sEol = true ∧
    (∃ t, exec .sEol (dumping 0#32 55) = .next t) ∧
    (∃ t, exec .sEol (dumping 16#32 55) = .next t) := ⟨rfl, ⟨_, rfl⟩, ⟨_, rfl⟩⟩

theorem witness_CrcStepFrame :
    isCrcStep .cFin = true ∧
    (∃ t, exec .cFin (summing .cLen 0#32 0#32 0#32) = .next t) ∧
    isCrcStep .cByte = true ∧
    (∃ t, exec .cByte (summing .cData 1#32 0#32 1#32) = .next t) := ⟨rfl, ⟨_, rfl⟩, rfl, ⟨_, rfl⟩⟩

theorem witness_CommandFrame :
    (∃ t, exec .nop idle = .next t) ∧
    (∃ t, exec .crc (withArgs 0#32 0#32) = .next t) ∧
    (∃ t, exec .load (withArgs 0#32 0#32) = .next t) ∧
    (∃ t, exec .dump (withArgs 0#32 0#32) = .next t) ∧
    (∃ t, exec .dump (withArgs 0#32 16#32) = .next t) := ⟨⟨_, rfl⟩, ⟨_, rfl⟩, ⟨_, rfl⟩, ⟨_, rfl⟩, ⟨_, rfl⟩⟩

theorem witness_OnlyAddressDigitsSetSeen :
    (∃ t, exec .aHexUF (loading .address 0#32 0#8) = .next t ∧ t.pseen ≠ (loading .address 0#32 0#8).pseen) ∧
    (∃ t, exec .load { idle with pseen := true } = .next t ∧ t.pseen ≠ ({ idle with pseen := true } : State).pseen) := ⟨⟨_, rfl, by decide⟩, ⟨_, rfl, by decide⟩⟩

/-- Each writer of each register. -/
theorem witness_ResultRegistersHaveTheirWriters :
    (∃ t, exec .lHexLF (loading .byteLowNibble 15#32 0xA0#8) = .next t ∧ t.pcount ≠ State.pcount (loading .byteLowNibble 15#32 0xA0#8)) ∧
    (∃ t, exec .load { idle with pcount := 9#32, paddr := 9#32, pstatus := .stRange } = .next t ∧ t.pcount ≠ State.pcount { idle with pcount := 9#32, paddr := 9#32, pstatus := .stRange }) ∧
    (∃ t, exec .aHexUF (loading .address 0#32 0#8) = .next t ∧ t.paddr ≠ State.paddr (loading .address 0#32 0#8)) ∧
    (∃ t, exec .lHexLF (loading .byteLowNibble 15#32 0xA0#8) = .next t ∧ t.paddr ≠ State.paddr (loading .byteLowNibble 15#32 0xA0#8)) ∧
    (∃ t, exec .hLt (loading .byteHighNibble 15#32 0xFF#8) = .next t ∧ t.paddr ≠ State.paddr (loading .byteHighNibble 15#32 0xFF#8)) ∧
    (∃ t, exec .load { idle with pcount := 9#32, paddr := 9#32, pstatus := .stRange } = .next t ∧ t.paddr ≠ State.paddr { idle with pcount := 9#32, paddr := 9#32, pstatus := .stRange }) ∧
    (∃ t, exec .load { idle with pcount := 9#32, paddr := 9#32, pstatus := .stRange } = .next t ∧ t.pstatus ≠ State.pstatus { idle with pcount := 9#32, paddr := 9#32, pstatus := .stRange }) ∧
    (∃ t, exec .aLt { loading .address 0#32 0#8 with pseen := true } = .next t ∧ t.pstatus ≠ State.pstatus { loading .address 0#32 0#8 with pseen := true }) ∧
    (∃ t, exec .lColon (loading .byteLowNibble 15#32 0xA0#8) = .next t ∧ t.pstatus ≠ State.pstatus (loading .byteLowNibble 15#32 0xA0#8)) ∧
    (∃ t, exec .lHexLF (loading .byteLowNibble 16#32 0xA0#8) = .next t ∧ t.pstatus ≠ State.pstatus (loading .byteLowNibble 16#32 0xA0#8)) ∧
    (∃ t, exec .lLt (loading .byteLowNibble 15#32 0xA0#8) = .next t ∧ t.pstatus ≠ State.pstatus (loading .byteLowNibble 15#32 0xA0#8)) ∧
    (∃ t, exec (.pEof 0#8) (loading .byteLowNibble 15#32 0xA0#8) = .next t ∧ t.pstatus ≠ State.pstatus (loading .byteLowNibble 15#32 0xA0#8)) ∧
    (∃ t, exec .hColon (loading .byteHighNibble 15#32 0xFF#8) = .next t ∧ t.perrch ≠ State.perrch (loading .byteHighNibble 15#32 0xFF#8)) ∧
    (∃ t, exec .cFin { summing .cLen 0#32 0#32 0#32 with crc := 1#32 } = .next t ∧ t.crcOut ≠ State.crcOut { summing .cLen 0#32 0#32 0#32 with crc := 1#32 }) := ⟨⟨_, rfl, by decide⟩, ⟨_, rfl, by decide⟩, ⟨_, rfl, by decide⟩, ⟨_, rfl, by decide⟩, ⟨_, rfl, by decide⟩, ⟨_, rfl, by decide⟩, ⟨_, rfl, by decide⟩, ⟨_, rfl, by decide⟩, ⟨_, rfl, by decide⟩, ⟨_, rfl, by decide⟩, ⟨_, rfl, by decide⟩, ⟨_, rfl, by decide⟩, ⟨_, rfl, by decide⟩, ⟨_, rfl, by decide⟩⟩

/-- A running LOAD, DUMP and CRC, and an idle machine. -/
theorem witness_StepKeepsInvariant :
    (Inv (fed (loading .byteLowNibble 15#32 0xA0#8) [0x035#9]) ∧ (∃ t, step (fed (loading .byteLowNibble 15#32 0xA0#8) [0x035#9]) = .next t)) ∧
    (Inv (dumping 16#32 55) ∧ (∃ t, step (dumping 16#32 55) = .next t)) ∧
    (Inv (summing .cData 4#32 3#32 4#32) ∧ (∃ t, step (summing .cData 4#32 3#32 4#32) = .next t)) ∧
    (Inv { withArgs 0#32 16#32 with host := [.cmd 3#2] } ∧ (∃ t, step { withArgs 0#32 16#32 with host := [.cmd 3#2] } = .next t)) := ⟨⟨by decide, _, rfl⟩, ⟨by decide, _, rfl⟩, ⟨by decide, _, rfl⟩, ⟨by decide, _, rfl⟩⟩

theorem witness_InvariantExcludesFaults :
    Inv (dumping 16#32 52) ∧
    Inv { withArgs 16#32 0#32 with host := [.cmd 2#2] } := ⟨by decide, by decide⟩

theorem witness_StepKeepsRunningCrc :
    (CrcRunning (summing .cData 4#32 0#32 4#32) ∧ (∃ t, step (summing .cData 4#32 0#32 4#32) = .next t)) ∧
    (CrcRunning (summing .cLen 0#32 0#32 0#32) ∧ (∃ t, step (summing .cLen 0#32 0#32 0#32) = .next t)) := ⟨⟨fun _ => .inl ⟨rfl, by decide, rfl, rfl⟩, _, rfl⟩, ⟨fun _ => .inr ⟨rfl, rfl⟩, _, rfl⟩⟩

theorem witness_CapacityNeverChanges :
    (∃ t, step (summing .cData 1#32 0#32 1#32) = .next t) := ⟨_, rfl⟩

/-- A window of one byte. -/
theorem witness_LoadStoresInsideItsWindow :
    (Inv (fed { loading .byteLowNibble 0#32 0xA0#8 with pend := 1#32 } [0x035#9]) ∧ (fed { loading .byteLowNibble 0#32 0xA0#8 with pend := 1#32 } [0x035#9]).unit = .load ∧
      (∃ t, step (fed { loading .byteLowNibble 0#32 0xA0#8 with pend := 1#32 } [0x035#9]) = .next t)) := ⟨by decide, rfl, _, rfl⟩

theorem witness_CrcCommandComputesCrc32Len :
    (withArgs 2048#32 0#32).unit = .idle ∧ (withArgs 2048#32 0#32).argA.toNat ≤ (withArgs 2048#32 0#32).capacity ∧
    (withArgs 0#32 0#32).argA.toNat ≤ (withArgs 0#32 0#32).capacity := by decide

theorem witness_DumpCommandEmitsDumpText :
    (withArgs 0#32 2048#32).unit = .idle ∧ (withArgs 0#32 2048#32).sinkRoom = none ∧
    dumpValid (withArgs 0#32 2048#32).capacity 0#32 2048#32 ∧
    dumpValid (withArgs 0#32 0#32).capacity 0#32 0#32 := by decide

theorem witness_DumpTextLoadsBack :
    (dumpValid (withArgs 0#32 16#32).capacity 0#32 16#32 ∧ (withArgs 0#32 16#32).argA ≠ (withArgs 0#32 16#32).argB ∧
      (withArgs 0#32 16#32).unit = .idle) ∧
    (fed (withArgs 0#32 16#32) (charSyms (dumpText idle 0#32 16#32) ++ charSym 0x0A#8 :: [0x041#9])).input =
      charSyms (dumpText idle 0#32 16#32) ++ charSym 0x0A#8 :: [0x041#9] ∧
    (fed (withArgs 0#32 16#32) (charSyms (dumpText idle 0#32 16#32) ++ eofSym 0#8 :: [])).input =
      charSyms (dumpText idle 0#32 16#32) ++ eofSym 0#8 :: [] ∧
    (dumpValid idle.capacity 0#32 0#32 ∧ idle.argA = idle.argB ∧ (fed idle [charSym 0x0A#8, eofSym 0#8]).input = [charSym 0x0A#8, eofSym 0#8]) := ⟨⟨by decide, by decide, rfl⟩, rfl, rfl, by decide, rfl, rfl⟩

/-- The sentinel among the symbols, and a source that has ended. -/
theorem witness_FairSourceEndsTheLoad :
    Inv (fed (loading .address 0#32 0#8) [0x00A#9, 0x100#9]) ∧ (loading .address 0#32 0#8).unit = .load ∧
    SourceFair (fed (loading .address 0#32 0#8) [0x00A#9, 0x100#9]) ∧
    SourceFair { loading .address 0#32 0#8 with inputEnded := true } := by decide

theorem witness_LengthBytesAreMinimalLittleEndian :
    (lenBytes 0x800#32).getLast? = some 0x08#8 := by decide

theorem witness_ResetValuesOfTheTable :
    State.reset = State.reset ∧ State.resetOf .readOnly = State.resetOf .readOnly ∧ State.resetOf .readWrite = State.resetOf .readWrite := ⟨rfl, rfl, rfl⟩

theorem witness_HostReadsResultRegisters :
    LoadInv (loading .byteLowNibble 0#32 0xF0#8) ∧ (loading .byteLowNibble 0#32 0xF0#8).unit = .load := by decide

end Sys2Proof.Tests
end

section
/-! PROOFS (scope, R7). No step changes the variant, so none changes the capacity. Each unit's rule is read off its lemma of
Laws/Exec.lean; `step_variant` is the frame every later bound on an image index can cite. -/

namespace Sys2Proof.Machine

open Sys2Proof.Safety

theorem symGet_variant {s t : State} {c : Sym} (h : symGet s = some (c, t)) : t.variant = s.variant := by
  obtain ⟨rest, _, rfl⟩ | ⟨_, _, _, rfl⟩ := symGet_some_iff.mp h <;> rfl

theorem fetch_item_variant {s t : State} {x : Item} (h : fetch s = .item x t) : t.variant = s.variant := by
  obtain ⟨_, _, _, _, _, rfl⟩ | ⟨_, _, hget, _⟩ | ⟨_, _, rfl⟩ | ⟨_, _, rfl⟩ := fetch_item_iff.mp h
  · rfl
  · exact symGet_variant hget
  · rfl
  · rfl

theorem fetch_written_variant {s t : State} (h : fetch s = .written t) : t.variant = s.variant := by
  obtain ⟨_, _, _, ⟨_, rfl⟩ | ⟨_, rfl⟩⟩ := fetch_written_iff.mp h <;> rfl

theorem exec_command_variant {i : Instr} {s t : State} (hi : isCommand i = true) (h : exec i s = .next t) :
    t.variant = s.variant := by
  obtain ⟨_, ⟨_, rfl⟩ | ⟨_, _, rfl⟩ | ⟨_, _, rfl⟩ | ⟨_, _, rfl⟩⟩ := exec_command_cases hi h
  · rfl
  · exact startCrc_variant ..
  · exact startLoad_variant ..
  · exact startDump_variant ..

theorem lHexStep_variant {d : Nibble} {s t : State} (h : lHexStep d s = .next t) : t.variant = s.variant := by
  obtain ⟨_, _, rfl⟩ | ⟨_, rfl⟩ := lHexStep_next_iff.mp h
  · rfl
  · exact raiseLoadError_variant ..

theorem exec_parser_variant {i : Instr} {s t : State} (hi : isParserStep i = true) (h : exec i s = .next t) :
    t.variant = s.variant := by
  obtain ⟨_, rfl | ⟨_, _, _, rfl⟩ | ⟨_, rfl⟩ | ⟨_, _, _, rfl⟩ | ⟨_, rfl, _⟩ | ⟨_, _, rfl⟩ | ⟨_, _, rfl⟩ | ⟨_, _, _, hstore⟩⟩ :=
    exec_parser_cases hi h
  · rfl
  · rfl
  · rfl
  · rfl
  · exact raiseLoadError_variant ..
  · rfl
  · rfl
  · exact lHexStep_variant hstore

theorem exec_serializer_variant {i : Instr} {s t : State} (hi : isSerializerStep i = true) (h : exec i s = .next t) :
    t.variant = s.variant := by
  obtain ⟨_, rfl | ⟨_, _, rfl⟩ | ⟨_, _, hlatch⟩ | hend⟩ := exec_serializer_cases hi h
  · rfl
  · rfl
  · obtain ⟨_, rfl⟩ := latchStep_next_iff.mp hlatch
    rfl
  · obtain ⟨_, rfl⟩ | ⟨_, rfl⟩ := endLineStep_next_iff.mp hend <;> rfl

theorem exec_crc_variant {i : Instr} {s t : State} (hi : isCrcStep i = true) (h : exec i s = .next t) :
    t.variant = s.variant := by
  obtain ⟨_, ⟨_, habsorb⟩ | ⟨_, _, rfl⟩ | ⟨_, _, _, rfl⟩⟩ := exec_crc_cases hi h
  · obtain ⟨_, rfl⟩ := absorbStep_next_iff.mp habsorb
    rfl
  · rfl
  · rfl

/-- No meaning writes the variant. -/
theorem exec_variant {i : Instr} {s t : State} (h : exec i s = .next t) : t.variant = s.variant := by
  obtain hi | hi | hi | hi := instr_unit_cases i
  · exact exec_command_variant hi h
  · exact exec_parser_variant hi h
  · exact exec_serializer_variant hi h
  · exact exec_crc_variant hi h

/-- No step writes the variant (log 5). -/
theorem step_variant {s t : State} (h : step s = .next t) : t.variant = s.variant := by
  obtain ⟨_, rfl⟩ | hwritten | ⟨x, s', i, hfetch, _, hexec⟩ := step_next_iff.mp h
  · rfl
  · exact fetch_written_variant hwritten
  · exact (exec_variant hexec).trans (fetch_item_variant hfetch)

theorem step_capacity {s t : State} (h : step s = .next t) : t.capacity = s.capacity := capacity_congr (step_variant h)

/-- Settles O48: the capacity is a function of the variant, which no step writes. -/
theorem capacityNeverChanges : Obligations.CapacityNeverChanges := by
  unfold Obligations.CapacityNeverChanges
  exact ⟨Config.capacity_readOnly, Config.capacity_readWrite, fun s t h => ⟨step_capacity h, capacity_cases s⟩⟩

end Sys2Proof.Machine
end

section
/-! PROOFS (scope, R8, R180, R181). One byte into the CRC register. The shift is linear over exclusive or, and shifting a register whose top bits
are clear never meets the polynomial: so the top byte goes through the table and the rest moves up. -/

namespace Sys2Proof.Machine

/-- R181's loop body, with the polynomial and the tested bit written out. -/
theorem crcShift_eq (r : Word) : crcShift r = if r.getLsbD 31 then (r <<< 1) ^^^ 0x04C11DB7#32 else r <<< 1 := rfl

theorem crcShifts_eq_iterate (n : Nat) (c : Word) : crcShifts n c = crcShift^[n] c := by
  induction n generalizing c with
  | zero => rfl
  | succ n ih => exact ih (crcShift c)

theorem crcByte_eq_crcShifts (c : Word) (b : Byte) : crcByte c b = crcShifts 8 (c ^^^ (b.zeroExtend 32 <<< 24)) := by
  rw [crcByte, crcInByte_eq]; rfl

theorem crcShift_xor (a b : Word) : crcShift (a ^^^ b) = crcShift a ^^^ crcShift b := by
  unfold crcShift
  rw [BitVec.msb_xor, BitVec.shiftLeft_xor_distrib]
  generalize a <<< 1 = x, b <<< 1 = y, Config.crcPoly = p
  cases a.msb <;> cases b.msb
  case false.false => rfl
  case false.true => exact BitVec.xor_assoc x y p
  case true.false => show x ^^^ y ^^^ p = x ^^^ p ^^^ y; ac_rfl
  case true.true =>
    calc x ^^^ y = x ^^^ y ^^^ (p ^^^ p) := by rw [BitVec.xor_self, BitVec.xor_zero]
      _ = x ^^^ p ^^^ (y ^^^ p) := by ac_rfl

theorem crcShifts_xor (n : Nat) (a b : Word) : crcShifts n (a ^^^ b) = crcShifts n a ^^^ crcShifts n b := by
  induction n generalizing a b with
  | zero => rfl
  | succ n ih => simp only [crcShifts, crcShift_xor, ih]

/-- While no set bit is shifted out, the polynomial is never applied. -/
theorem crcShifts_of_lt (n : Nat) (c : Word) (h : c.toNat * 2 ^ n < 2 ^ 32) : crcShifts n c = c <<< n := by
  induction n generalizing c with
  | zero => exact (BitVec.shiftLeft_zero c).symm
  | succ n ih =>
    have hdouble : c.toNat * 2 * 2 ^ n < 2 ^ 32 := by rwa [Nat.mul_assoc, ← Nat.pow_succ']
    have hlt : c.toNat * 2 < 2 ^ 32 := Nat.lt_of_le_of_lt (Nat.le_mul_of_pos_right _ (Nat.two_pow_pos n)) hdouble
    have htop : c.msb = false := BitVec.msb_eq_false_iff_two_mul_lt.mpr (by omega)
    have hshift : (c <<< 1).toNat = c.toNat * 2 := by
      rw [BitVec.toNat_shiftLeft, Nat.shiftLeft_eq, Nat.pow_one, Nat.mod_eq_of_lt hlt]
    calc crcShifts (n + 1) c = crcShifts n (c <<< 1) := by simp [crcShifts, crcShift, htop]
      _ = c <<< 1 <<< n := ih _ (by rwa [hshift])
      _ = c <<< (n + 1) := by rw [← BitVec.shiftLeft_add, Nat.add_comm]

/-- The register with the input over its top byte is its low 24 bits with the table's index over them. -/
theorem xor_input_eq_rest_xor_index (c : Word) (b : Byte) :
    c ^^^ b.zeroExtend 32 <<< 24 = (c.setWidth 24).zeroExtend 32 ^^^ (c.extractLsb' 24 8 ^^^ b).zeroExtend 32 <<< 24 := by
  ext i hi
  grind

/-- Eight shifts move the low 24 bits up. -/
theorem crcShifts_eight_rest (c : Word) : crcShifts 8 ((c.setWidth 24).zeroExtend 32) = c <<< 8 := by
  have hlow : ((c.setWidth 24).zeroExtend 32).toNat < 2 ^ 24 := by
    rw [BitVec.zeroExtend, BitVec.toNat_setWidth_of_le (by decide)]
    exact (c.setWidth 24).isLt
  rw [crcShifts_of_lt 8 _ (by omega)]
  ext i hi
  grind

/-- The table-driven form (R181). -/
theorem crcByte_eq_table (c : Word) (b : Byte) : crcByte c b = (c <<< 8) ^^^ crcByte 0#32 (c.extractLsb' 24 8 ^^^ b) := by
  rw [crcByte_eq_crcShifts c, xor_input_eq_rest_xor_index, crcShifts_xor, crcShifts_eight_rest, crcByte_eq_crcShifts,
    BitVec.zero_xor]

/-- The table entries R181 prints. -/
theorem crcByte_table_entries :
    crcByte 0#32 0x00#8 = 0x00000000#32 ∧ crcByte 0#32 0x01#8 = 0x04C11DB7#32 ∧ crcByte 0#32 0x02#8 = 0x09823B6E#32 ∧
    crcByte 0#32 0x03#8 = 0x0D4326D9#32 ∧ crcByte 0#32 0x04#8 = 0x130476DC#32 ∧ crcByte 0#32 0x08#8 = 0x2608EDB8#32 ∧
    crcByte 0#32 0x80#8 = 0x690CE0EE#32 ∧ crcByte 0#32 0xFF#8 = 0xB1F740B4#32 := by decide

/-- Settles O54: the loop iterates the model's shift; the table form is that shift's linearity, applied to the low 24 bits and the table's index. -/
theorem crcByteFollowsLoopAndTable : Obligations.CrcByteFollowsLoopAndTable := by
  unfold Obligations.CrcByteFollowsLoopAndTable
  refine ⟨fun c b => ?_, crcByte_eq_table, crcByte_table_entries⟩
  rw [crcByte_eq_crcShifts, crcShifts_eq_iterate, funext crcShift_eq]

end Sys2Proof.Machine
end

section
/-! PROOFS (scope, R20, R230). The clauses of the invariants that speak of a running unit hold of an idle machine. -/

namespace Sys2Proof.Safety

open Sys2Proof.Machine

theorem inv_iff_of_idle {s : State} (h : s.unit = .idle) : Inv s ↔ ImgInv s := by
  simp [Inv, LoadInv, DumpInv, CrcInv, h]

theorem crcRunning_of_idle {s : State} (h : s.unit = .idle) : CrcRunning s := by
  simp [CrcRunning, h]

/-- Settles O45: the reset machine is idle and its image lists nothing. -/
theorem resetMeetsInvariants : Obligations.ResetMeetsInvariants := by
  unfold Obligations.ResetMeetsInvariants
  have himg (v : Variant) : ImgInv (State.resetOf v) := ⟨.nil, nofun⟩
  exact ⟨fun v => ⟨(inv_iff_of_idle rfl).mpr (himg v), crcRunning_of_idle rfl⟩, Config.variant, rfl⟩

end Sys2Proof.Safety
end

section
/-! PROOFS (10_state, R21, R107, R135, R189). What a unit leaves as it was: the serializer's and the CRC unit's frames, and the image under every
row but the ten that store. -/

namespace Sys2Proof.Safety

open Sys2Proof.Machine

/-- A serializer step writes `sline`, `spos`, `sbyte`, the sink and `unit` (R135). -/
theorem exec_serializer_frame {i : Instr} {s t : State} (hi : isSerializerStep i = true) (h : exec i s = .next t) :
    t = { s with unit := t.unit, sline := t.sline, spos := t.spos, sbyte := t.sbyte, output := t.output, sinkRoom := t.sinkRoom } := by
  obtain ⟨_, rfl | ⟨_, _, rfl⟩ | ⟨_, _, hlatch⟩ | hend⟩ := exec_serializer_cases hi h
  · rfl
  · rfl
  · obtain ⟨_, rfl⟩ := latchStep_next_iff.mp hlatch
    rfl
  · obtain ⟨_, rfl⟩ | ⟨_, rfl⟩ := endLineStep_next_iff.mp hend <;> rfl

/-- A CRC step writes `crc`, `cidx`, `crem`, `cphase`, `CRC_OUT` and `unit` (R185 to R187). -/
theorem exec_crc_frame {i : Instr} {s t : State} (hi : isCrcStep i = true) (h : exec i s = .next t) :
    t = { s with unit := t.unit, crc := t.crc, cidx := t.cidx, crem := t.crem, cphase := t.cphase, crcOut := t.crcOut } := by
  obtain ⟨_, ⟨_, habsorb⟩ | ⟨_, _, rfl⟩ | ⟨_, _, _, rfl⟩⟩ := exec_crc_cases hi h
  · obtain ⟨_, rfl⟩ := absorbStep_next_iff.mp habsorb
    rfl
  · rfl
  · rfl

theorem exec_command_img {i : Instr} {s t : State} (hi : isCommand i = true) (h : exec i s = .next t) : t.img = s.img := by
  obtain ⟨_, ⟨_, rfl⟩ | ⟨_, _, rfl⟩ | ⟨_, _, rfl⟩ | ⟨_, _, rfl⟩⟩ := exec_command_cases hi h
  · rfl
  · exact startCrc_img ..
  · exact startLoad_img ..
  · exact startDump_img ..

theorem exec_parser_img {i : Instr} {s t : State} (hi : isParserStep i = true) (hl : isLHex i = false) (h : exec i s = .next t) :
    t.img = s.img := by
  obtain ⟨_, rfl | ⟨_, _, _, rfl⟩ | ⟨_, rfl⟩ | ⟨_, _, _, rfl⟩ | ⟨_, rfl, _⟩ | ⟨_, _, rfl⟩ | ⟨_, _, rfl⟩ | ⟨hstore, _⟩⟩ :=
    exec_parser_cases hi h
  · rfl
  · rfl
  · rfl
  · rfl
  · exact raiseLoadError_img ..
  · rfl
  · rfl
  · exact absurd hstore (Bool.eq_false_iff.mp hl)

/-- Only a row of step `L.HEX` writes the image (R21, R153). -/
theorem exec_img {i : Instr} {s t : State} (hl : isLHex i = false) (h : exec i s = .next t) : t.img = s.img := by
  obtain hi | hi | hi | hi := instr_unit_cases i
  · exact exec_command_img hi h
  · exact exec_parser_img hi hl h
  · rw [exec_serializer_frame hi h]
  · rw [exec_crc_frame hi h]

/-- Settles O36: the image is the same list, so every byte reads as before. -/
theorem onlySecondDigitWritesImage : Obligations.OnlySecondDigitWritesImage := by
  unfold Obligations.OnlySecondDigitWritesImage
  intro i s t hl h
  exact ⟨exec_img hl h, imgByte_congr (exec_img hl h)⟩

end Sys2Proof.Safety
end

section
/-! PROOFS (10_state, R25 to R35). Who writes the registers that the host reads and writes, and the flag `pseen`. -/

namespace Sys2Proof.Safety

open Sys2Proof.Machine

/-- A load error leaves its code in `pstatus`, and an offending character in `perrch` only in a row that raises ST_SYNTAX (R200, R207). -/
theorem raiseLoadError_writes {e : LoadError} {i : Instr} {s : State} (h : raises e i) :
    ((isSyntaxErrorRow i = true ∧ (raiseLoadError e s).pstatus = .stSyntax) ∨ (isLHex i = true ∧ (raiseLoadError e s).pstatus = .stRange) ∨
      (i = .lLt ∧ (raiseLoadError e s).pstatus = .stTrunc) ∨ ((∃ ch, i = .pEof ch) ∧ (raiseLoadError e s).pstatus = .stUnknown)) ∧
    ((raiseLoadError e s).perrch ≠ s.perrch → isSyntaxErrorRow i = true) := by
  cases e with
  | syntaxError ch => exact ⟨.inl ⟨h, rfl⟩, fun _ => h⟩
  | range => exact ⟨.inr (.inl ⟨h, rfl⟩), fun hne => absurd rfl hne⟩
  | trunc => exact ⟨.inr (.inr (.inl ⟨h, rfl⟩)), fun hne => absurd rfl hne⟩
  | unknown => exact ⟨.inr (.inr (.inr ⟨h, rfl⟩)), fun hne => absurd rfl hne⟩

/-- The second digit stores and counts, or it ends the load with ST_RANGE (R153). -/
theorem lHexStep_writes {d : Nibble} {s t : State} (h : lHexStep d s = .next t) :
    (t.pcount = s.pcount + 1#32 ∧ t.paddr = s.paddr + 1#32 ∧ t.pstatus = s.pstatus ∨
      t.pcount = s.pcount ∧ t.paddr = s.paddr ∧ t.pstatus = .stRange) ∧
    t.pseen = s.pseen ∧ t.perrch = s.perrch ∧ t.crcOut = s.crcOut ∧ t.argA = s.argA ∧ t.argB = s.argB := by
  obtain ⟨_, _, rfl⟩ | ⟨_, rfl⟩ := lHexStep_next_iff.mp h
  · exact ⟨.inl ⟨rfl, rfl, rfl⟩, rfl, rfl, rfl, rfl, rfl⟩
  · exact ⟨.inr ⟨rfl, rfl, rfl⟩, rfl, rfl, rfl, rfl, rfl⟩

theorem exec_crc_crcOut {i : Instr} {s t : State} (hi : isCrcStep i = true) (h : exec i s = .next t) (hne : t.crcOut ≠ s.crcOut) :
    i = .cFin := by
  obtain ⟨_, ⟨_, habsorb⟩ | ⟨_, _, rfl⟩ | ⟨hfin, _⟩⟩ := exec_crc_cases hi h
  · obtain ⟨_, rfl⟩ := absorbStep_next_iff.mp habsorb
    exact absurd rfl hne
  · exact absurd rfl hne
  · exact hfin

/-- Settles O42: of the four commands the start of a LOAD clears `pseen`, of the parser's rules the address digit sets it, and the frames of the
other two units keep it. -/
theorem onlyAddressDigitsSetSeen : Obligations.OnlyAddressDigitsSetSeen := by
  unfold Obligations.OnlyAddressDigitsSetSeen
  intro i s t h hne
  obtain hi | hi | hi | hi := instr_unit_cases i
  · obtain ⟨_, ⟨_, rfl⟩ | ⟨_, _, rfl⟩ | ⟨hload, _, rfl⟩ | ⟨_, _, rfl⟩⟩ := exec_command_cases hi h
    · exact absurd rfl hne
    · exact absurd (startCrc_pseen ..) hne
    · exact .inr ⟨hload, startLoad_pseen ..⟩
    · exact absurd (startDump_pseen ..) hne
  · obtain ⟨_, rfl | ⟨hdigit, _, _, rfl⟩ | ⟨_, rfl⟩ | ⟨_, _, _, rfl⟩ | ⟨_, rfl, _⟩ | ⟨_, _, rfl⟩ | ⟨_, _, rfl⟩ | ⟨_, _, _, hstore⟩⟩ :=
      exec_parser_cases hi h
    · exact absurd rfl hne
    · exact .inl ⟨hdigit, setSeen_pseen _⟩
    · exact absurd rfl hne
    · exact absurd rfl hne
    · exact absurd (raiseLoadError_pseen ..) hne
    · exact absurd rfl hne
    · exact absurd rfl hne
    · exact absurd (lHexStep_writes hstore).2.1 hne
  · exact absurd (congrArg State.pseen (exec_serializer_frame hi h)) hne
  · exact absurd (congrArg State.pseen (exec_crc_frame hi h)) hne

/-- Settles O43: a command or a parser rule other than a load error or a store writes the named registers outright; those two have their lemmas,
and the frames of the other two units keep all but `CRC_OUT`, which C.FIN writes. -/
theorem resultRegistersHaveTheirWriters : Obligations.ResultRegistersHaveTheirWriters := by
  unfold Obligations.ResultRegistersHaveTheirWriters
  intro i s t h
  obtain hi | hi | hi | hi := instr_unit_cases i
  · obtain ⟨_, ⟨_, rfl⟩ | ⟨_, _, rfl⟩ | ⟨hload, _, rfl⟩ | ⟨_, _, rfl⟩⟩ := exec_command_cases hi h
    · simp
    · simp
    · simp [hload]
    · simp
  · obtain ⟨_, rfl | ⟨hdigit, _, _, rfl⟩ | ⟨_, rfl⟩ | ⟨hend, _, _, rfl⟩ | ⟨e, rfl, he⟩ | ⟨_, _, rfl⟩ | ⟨hline, _, rfl⟩ | ⟨hl, _, _, hstore⟩⟩ :=
      exec_parser_cases hi h
    · simp
    · simp [hdigit]
    · simp
    · simp [hend]
    · obtain ⟨hstatus, herrch⟩ := raiseLoadError_writes (s := s) he
      exact ⟨fun hne => absurd (raiseLoadError_pcount ..) hne, fun hne => absurd (raiseLoadError_paddr ..) hne, fun _ => .inr (.inr hstatus),
        herrch, fun hne => absurd (raiseLoadError_crcOut ..) hne, raiseLoadError_argA .., raiseLoadError_argB ..⟩
    · simp
    · simp [hline]
    · obtain ⟨⟨hcount, haddr, hstatus⟩ | ⟨hcount, haddr, hstatus⟩, _, herrch, hout, hA, hB⟩ := lHexStep_writes hstore
      · simp [hl, hcount, haddr, hstatus, herrch, hout, hA, hB]
      · simp [hl, hcount, haddr, hstatus, herrch, hout, hA, hB]
  · rw [exec_serializer_frame hi h]
    simp
  · rw [exec_crc_frame hi h]
    simpa using exec_crc_crcOut hi h

end Sys2Proof.Safety
end

section
/-! PROOFS (10_state, R21, R29, R109 to R111, R159, R160, R185). Every step keeps `Inv`. For each unit one lemma says what `Inv` asks of a machine
in which that unit runs; each rule is then a short argument about its own unit's clause, and the image's clause is one for all rules. -/

namespace Sys2Proof.Safety

open Sys2Proof.Machine

/-! ## What the invariant asks of each running unit -/

theorem inv_iff_of_load {s : State} (h : s.unit = .load) :
    Inv s ↔ ImgInv s ∧ loadValid s.capacity s.pstart s.pend ∧ s.pstatus = .stNone ∧
      (s.pstate = .byteLowNibble → loNibble s.pbyte = 0#4) := by
  simp [Inv, LoadInv, DumpInv, CrcInv, h]

theorem inv_iff_of_dump {s : State} (h : s.unit = .dump) :
    Inv s ↔ ImgInv s ∧ dumpValid s.capacity s.sstart s.send ∧ s.sstart.toNat ≤ s.sline.toNat ∧ s.sline.toNat < s.send.toNat ∧
      s.sline.toNat % Config.lineBytes = 0 := by
  simp [Inv, LoadInv, DumpInv, CrcInv, h]

theorem inv_iff_of_crc {s : State} (h : s.unit = .crc) :
    Inv s ↔ ImgInv s ∧ crcValid s.capacity s.clen ∧
      ((s.cphase = .cData ∧ s.cidx.toNat < s.clen.toNat ∧ s.crem = s.clen) ∨ (s.cphase = .cLen ∧ s.cidx = s.clen)) := by
  simp [Inv, LoadInv, DumpInv, CrcInv, h]

/-! ## The image -/

theorem imgInv_congr {s t : State} (himg : t.img = s.img) (hv : t.variant = s.variant) : ImgInv t ↔ ImgInv s := by
  rw [ImgInv, ImgInv, himg, capacity_congr hv]

/-- A store below the capacity keeps the canonical form and the bound on the indices. -/
theorem imgInv_of_write {s t : State} {a : Nat} {b : Byte} (h : ImgInv s) (ha : a < s.capacity) (himg : t.img = s.img.write a b)
    (hv : t.variant = s.variant) : ImgInv t := by
  rw [ImgInv, himg, capacity_congr hv]
  refine ⟨Memory.write_wf a b h.1, fun c hc => ?_⟩
  obtain rfl | hc := Memory.mem_write hc
  · exact ha
  · exact h.2 c hc

/-! ## The starts and the ends of the commands -/

theorem startCrc_inv {len : Word} {s : State} (himg : ImgInv s) (hvalid : crcValid s.capacity len) : Inv (startCrc len s) := by
  refine (inv_iff_of_crc (startCrc_unit ..)).mpr ⟨himg, hvalid, ?_⟩
  by_cases hlen : len = 0#32
  · exact .inr ⟨if_pos hlen, hlen.symm⟩
  · have hne : len.toNat ≠ 0 := fun h => hlen (BitVec.eq_of_toNat_eq h)
    exact .inl ⟨if_neg hlen, Nat.pos_of_ne_zero hne, rfl⟩

theorem startLoad_inv {start stop : Word} {s : State} (himg : ImgInv s) (hvalid : loadValid s.capacity start stop) :
    Inv (startLoad start stop s) :=
  (inv_iff_of_load (startLoad_unit ..)).mpr ⟨himg, hvalid, startLoad_pstatus .., nofun⟩

theorem startDump_inv {start stop : Word} {s : State} (himg : ImgInv s) (hvalid : dumpValid s.capacity start stop) :
    Inv (startDump start stop s) := by
  have himg' : ImgInv (startDump start stop s) := (imgInv_congr (startDump_img ..) (startDump_variant ..)).mpr himg
  by_cases hempty : stop ≤ start
  · exact (inv_iff_of_idle (by simp [hempty])).mpr himg'
  · refine (inv_iff_of_dump (by simp [hempty])).mpr ⟨himg', ?_⟩
    rw [startDump_sstart, startDump_send, startDump_sline, capacity_congr (startDump_variant ..)]
    exact ⟨hvalid, Nat.le_refl _, Nat.lt_of_not_le hempty, hvalid.2.2.1⟩

theorem raiseLoadError_inv {e : LoadError} {s : State} (himg : ImgInv s) : Inv (raiseLoadError e s) :=
  (inv_iff_of_idle (raiseLoadError_unit ..)).mpr ((imgInv_congr (raiseLoadError_img ..) (raiseLoadError_variant ..)).mpr himg)

/-! ## The rules -/

theorem loNibble_highNibble (d : Nibble) : loNibble (highNibble d) = 0#4 := by
  revert d; decide

theorem lHexStep_inv {d : Nibble} {s t : State} (hu : s.unit = .load) (hinv : Inv s) (h : lHexStep d s = .next t) : Inv t := by
  obtain ⟨himg, hvalid, hstatus, _⟩ := (inv_iff_of_load hu).mp hinv
  obtain ⟨_, hindex, rfl⟩ | ⟨_, rfl⟩ := lHexStep_next_iff.mp h
  · exact (inv_iff_of_load (by exact hu)).mpr ⟨imgInv_of_write himg hindex rfl rfl, hvalid, hstatus, nofun⟩
  · exact raiseLoadError_inv himg

theorem latchStep_inv {i : ByteIdx} {s t : State} (hinv : Inv s) (h : latchStep i s = .next t) : Inv t := by
  obtain ⟨_, rfl⟩ := latchStep_next_iff.mp h
  exact hinv

/-- After a line that is not the last the next one starts on the grid, still below the end: both are multiples of 16. -/
theorem endLineStep_inv {s t : State} (hu : s.unit = .dump) (hinv : Inv s) (h : endLineStep s = .next t) : Inv t := by
  obtain ⟨himg, hvalid, hstart, hstop, hgrid⟩ := (inv_iff_of_dump hu).mp hinv
  obtain ⟨_, rfl⟩ | ⟨hlast, rfl⟩ := endLineStep_next_iff.mp h
  · exact (inv_iff_of_idle rfl).mpr himg
  · obtain ⟨_, _, _, _, hlimit⟩ := dumpValid_iff.mp hvalid
    have hnext : (s.sline + 16#32).toNat = s.sline.toNat + 16 := BitVec.toNat_add_of_lt (by
      show s.sline.toNat + 16 < 2 ^ 32
      omega)
    have hmore : (s.sline + 16#32).toNat < s.send.toNat := Nat.lt_of_not_le hlast
    refine (inv_iff_of_dump (by exact hu)).mpr ⟨himg, hvalid, ?_, hmore, ?_⟩
    · exact hnext ▸ Nat.le_add_right_of_le hstart
    · exact hnext ▸ (Nat.add_mod_right ..).trans hgrid

/-- After a data byte either data is left, or the length's turn has come (R185). -/
theorem absorbStep_inv {s t : State} (hu : s.unit = .crc) (hp : s.cphase = .cData) (hinv : Inv s) (h : absorbStep s = .next t) : Inv t := by
  obtain ⟨himg, hvalid, ⟨_, hlt, hrem⟩ | ⟨hlen, _⟩⟩ := (inv_iff_of_crc hu).mp hinv
  · obtain ⟨_, rfl⟩ := absorbStep_next_iff.mp h
    refine (inv_iff_of_crc (by exact hu)).mpr ⟨himg, hvalid, ?_⟩
    by_cases hend : s.cidx + 1#32 = s.clen
    · exact .inr ⟨if_pos hend, hend⟩
    · refine .inl ⟨(if_neg hend).trans hp, ?_, hrem⟩
      show (s.cidx + 1#32).toNat < s.clen.toNat
      bv_omega
  · exact absurd (hp.symm.trans hlen) nofun

/-! ## The units -/

theorem exec_command_inv {i : Instr} {s t : State} (hi : isCommand i = true) (hinv : Inv s) (h : exec i s = .next t) : Inv t := by
  obtain ⟨_, ⟨_, rfl⟩ | ⟨_, hvalid, rfl⟩ | ⟨_, hvalid, rfl⟩ | ⟨_, hvalid, rfl⟩⟩ := exec_command_cases hi h
  · exact hinv
  · exact startCrc_inv hinv.1 hvalid
  · exact startLoad_inv hinv.1 hvalid
  · exact startDump_inv hinv.1 hvalid

theorem exec_parser_inv {i : Instr} {s t : State} (hi : isParserStep i = true) (hinv : Inv s) (h : exec i s = .next t) : Inv t := by
  obtain ⟨hu, hcases⟩ := exec_parser_cases hi h
  obtain ⟨himg, hvalid, hstatus, hlow⟩ := (inv_iff_of_load hu).mp hinv
  obtain rfl | ⟨_, _, _, rfl⟩ | ⟨_, rfl⟩ | ⟨_, _, _, rfl⟩ | ⟨_, rfl, _⟩ | ⟨_, d, rfl⟩ | ⟨_, _, rfl⟩ | ⟨_, _, _, hstore⟩ := hcases
  · exact hinv
  · exact hinv
  · exact (inv_iff_of_load (by exact hu)).mpr ⟨himg, hvalid, hstatus, nofun⟩
  · exact (inv_iff_of_idle rfl).mpr himg
  · exact raiseLoadError_inv himg
  · exact (inv_iff_of_load (by exact hu)).mpr ⟨himg, hvalid, hstatus, fun _ => loNibble_highNibble d⟩
  · exact (inv_iff_of_load (by exact hu)).mpr ⟨himg, hvalid, hstatus, nofun⟩
  · exact lHexStep_inv hu hinv hstore

theorem exec_serializer_inv {i : Instr} {s t : State} (hi : isSerializerStep i = true) (hinv : Inv s) (h : exec i s = .next t) : Inv t := by
  obtain ⟨hu, rfl | ⟨_, _, rfl⟩ | ⟨_, _, hlatch⟩ | hend⟩ := exec_serializer_cases hi h
  · exact hinv
  · exact hinv
  · exact latchStep_inv hinv hlatch
  · exact endLineStep_inv hu hinv hend

theorem exec_crc_inv {i : Instr} {s t : State} (hi : isCrcStep i = true) (hinv : Inv s) (h : exec i s = .next t) : Inv t := by
  obtain ⟨hu, ⟨hp, habsorb⟩ | ⟨hp, _, rfl⟩ | ⟨_, _, _, rfl⟩⟩ := exec_crc_cases hi h
  · exact absorbStep_inv hu hp hinv habsorb
  · obtain ⟨himg, hvalid, ⟨hdata, _⟩ | hlen⟩ := (inv_iff_of_crc hu).mp hinv
    · exact absurd (hp.symm.trans hdata) nofun
    · exact (inv_iff_of_crc (by exact hu)).mpr ⟨himg, hvalid, .inr hlen⟩
  · exact (inv_iff_of_idle rfl).mpr hinv.1

theorem exec_inv {i : Instr} {s t : State} (hinv : Inv s) (h : exec i s = .next t) : Inv t := by
  obtain hi | hi | hi | hi := instr_unit_cases i
  · exact exec_command_inv hi hinv h
  · exact exec_parser_inv hi hinv h
  · exact exec_serializer_inv hi hinv h
  · exact exec_crc_inv hi hinv h

/-! ## The step -/

theorem fetch_written_inv {s t : State} (hinv : Inv s) (h : fetch s = .written t) : Inv t := by
  obtain ⟨_, _, _, ⟨_, rfl⟩ | ⟨_, rfl⟩⟩ := fetch_written_iff.mp h <;> exact hinv

theorem symGet_inv {s t : State} {c : Sym} (hinv : Inv s) (h : symGet s = some (c, t)) : Inv t := by
  obtain ⟨_, _, rfl⟩ | ⟨_, _, _, rfl⟩ := symGet_some_iff.mp h <;> exact hinv

theorem fetch_item_inv {s t : State} {x : Item} (hinv : Inv s) (h : fetch s = .item x t) : Inv t := by
  obtain ⟨_, _, _, _, _, rfl⟩ | ⟨_, _, hget, _⟩ | ⟨_, _, rfl⟩ | ⟨_, _, rfl⟩ := fetch_item_iff.mp h
  · exact hinv
  · exact symGet_inv hinv hget
  · exact hinv
  · exact hinv

/-- Settles O44: a fetch writes no register the invariant speaks of, and the rules of each unit keep it. -/
theorem stepKeepsInvariant : Obligations.StepKeepsInvariant := by
  unfold Obligations.StepKeepsInvariant
  intro s t hinv h
  obtain ⟨_, rfl⟩ | hwritten | ⟨_, _, _, hfetch, _, hexec⟩ := step_next_iff.mp h
  · exact hinv
  · exact fetch_written_inv hinv hwritten
  · exact exec_inv (fetch_item_inv hinv hfetch) hexec

end Sys2Proof.Safety
end

section
/-! PROOFS (10_state, R22, R31, R35, R71). The host's side: the operand registers it writes and the result registers it reads. -/

namespace Sys2Proof.Safety

open Sys2Proof.Machine

theorem step_argA_write {s : State} {v : Word} {rest : List HostWrite} (hu : s.unit = .idle) (hhost : s.host = .argA v :: rest) :
    step s = .next { s with argA := v, host := rest } :=
  step_next_iff.mpr (.inr (.inl (fetch_written_iff.mpr ⟨hu, v, rest, .inl ⟨hhost, rfl⟩⟩)))

theorem step_argB_write {s : State} {v : Word} {rest : List HostWrite} (hu : s.unit = .idle) (hhost : s.host = .argB v :: rest) :
    step s = .next { s with argB := v, host := rest } :=
  step_next_iff.mpr (.inr (.inl (fetch_written_iff.mpr ⟨hu, v, rest, .inr ⟨hhost, rfl⟩⟩)))

/-- Settles O11: an idle machine takes the host's write as it stands at the head of the list. -/
theorem hostWritesOperandRegisters : Obligations.HostWritesOperandRegisters := by
  unfold Obligations.HostWritesOperandRegisters
  exact ⟨fun _ _ _ => step_argA_write, fun _ _ _ => step_argB_write⟩

/-! ## What the host reads -/

/-- The codes of R22 are distinct, also when widened. -/
theorem unitCode_widened_inj {a b : RunUnit} : a.code.zeroExtend 32 = b.code.zeroExtend 32 ↔ a = b := by
  cases a <;> cases b <;> decide

/-- The codes of R31 are distinct, also when widened. -/
theorem statusCode_widened_inj {a b : PStatus} : a.code.zeroExtend 32 = b.code.zeroExtend 32 ↔ a = b := by
  cases a <;> cases b <;> decide

theorem hostRead_unit_iff {s : State} (u : RunUnit) : hostRead .unit s = u.code.zeroExtend 32 ↔ s.unit = u :=
  unitCode_widened_inj

theorem hostRead_ldStatus_iff {s : State} (p : PStatus) : hostRead .ldStatus s = p.code.zeroExtend 32 ↔ s.pstatus = p :=
  statusCode_widened_inj

theorem hostRead_busy (s : State) : hostRead .busy s = if s.unit = .idle then 0#32 else 1#32 := by
  show BitVec.zeroExtend 32 (if s.unit = .idle then 0#1 else 1#1) = _
  split <;> rfl

theorem hostRead_busy_eq_zero_iff {s : State} : hostRead .busy s = 0#32 ↔ s.unit = .idle := by
  simp [hostRead_busy]

theorem hostRead_busy_eq_one_iff {s : State} : hostRead .busy s = 1#32 ↔ s.unit ≠ .idle := by
  simp [hostRead_busy]

theorem hostRead_ldErrch_toNat (s : State) : (hostRead .ldErrch s).toNat = s.perrch.toNat :=
  BitVec.toNat_setWidth_of_le (by decide)

/-- Settles O58: a code read determines the unit or the status, and a running LOAD with `LoadInv` has unit 2 and status ST_NONE. -/
theorem hostReadsResultRegisters : Obligations.HostReadsResultRegisters := by
  unfold Obligations.HostReadsResultRegisters
  intro s
  refine ⟨hostRead_busy_eq_zero_iff, hostRead_busy_eq_one_iff, hostRead_unit_iff .idle, hostRead_unit_iff .crc, hostRead_unit_iff .load,
    hostRead_unit_iff .dump, rfl, rfl, rfl, hostRead_ldErrch_toNat s, hostRead_ldStatus_iff .stNone, hostRead_ldStatus_iff .stOk,
    hostRead_ldStatus_iff .stSyntax, hostRead_ldStatus_iff .stRange, hostRead_ldStatus_iff .stTrunc, hostRead_ldStatus_iff .stUnknown, ?_⟩
  intro hload hu
  obtain ⟨_, hstatus, _⟩ := hload hu
  exact ⟨hostRead_busy_eq_one_iff.mpr (by rw [hu]; nofun), (hostRead_unit_iff .load).mpr hu, (hostRead_ldStatus_iff .stNone).mpr hstatus⟩

end Sys2Proof.Safety
end

section
/-! PROOFS (10_state, R21, R53, R82, R101, R108, R141). From a state with `Inv` the selected row always runs: its selector is the state's own, and
every index it takes into the image is below the capacity. Only a command whose operands are refused stops the machine. -/

namespace Sys2Proof.Safety

open Sys2Proof.Machine

/-! ## Indices in a window -/

/-- An address of a window that fits the image has its index inside the image (R52, R53). -/
theorem windowIndex_lt {cap : Nat} {a start stop : Word} (hfit : stop.toNat - start.toNat ≤ cap) (hstart : start ≤ a) (hstop : a < stop) :
    windowIndex a start < cap := by
  rw [windowIndex_of_le hstart]
  bv_omega

/-- The bytes of a line of a running DUMP lie inside its window, which ends on the grid (R110, R128). -/
theorem dumpLine_windowIndex_lt {s : State} (hu : s.unit = .dump) (hinv : Inv s) (i : ByteIdx) :
    windowIndex (s.sline + BitVec.ofNat 32 i.val) s.sstart < s.capacity := by
  obtain ⟨_, hvalid, hstart, hstop, hgrid⟩ := (inv_iff_of_dump hu).mp hinv
  obtain ⟨_, hfit, _, hend, hlimit⟩ := dumpValid_iff.mp hvalid
  rw [Config.lineBytes_val] at hgrid
  have hi : i.val < 16 := i.isLt
  have haddr : (s.sline + BitVec.ofNat 32 i.val).toNat = s.sline.toNat + i.val := by
    rw [BitVec.toNat_add, BitVec.toNat_ofNat]
    omega
  refine windowIndex_lt hfit ?_ ?_
  · rw [BitVec.le_def, haddr]
    exact Nat.le_add_right_of_le hstart
  · rw [BitVec.lt_def, haddr]
    omega

/-! ## The rules answer a next state -/

theorem aLtStep_progress (s : State) : ∃ t, aLtStep s = .next t := by
  unfold aLtStep; split <;> exact ⟨_, rfl⟩

theorem lHexStep_progress {s : State} (hvalid : loadValid s.capacity s.pstart s.pend) (d : Nibble) : ∃ t, lHexStep d s = .next t := by
  by_cases hw : s.inWindow
  · exact ⟨_, lHexStep_next_iff.mpr (.inl ⟨hw, windowIndex_lt hvalid.2 hw.1 hw.2, rfl⟩)⟩
  · exact ⟨_, lHexStep_next_iff.mpr (.inr ⟨hw, rfl⟩)⟩

theorem endLineStep_progress (s : State) : ∃ t, endLineStep s = .next t := by
  unfold endLineStep; split <;> exact ⟨_, rfl⟩

theorem whenParser_progress {p : PState} {k : State → Result} {s : State} (hu : s.unit = .load) (hp : some p = some s.pstate)
    (hk : ∃ t, k s = .next t) : ∃ t, whenParser p k s = .next t := by
  rwa [whenParser_of hu (Option.some.inj hp).symm]

theorem whenSerializer_progress {pos : LinePos} {k : State → Result} {s : State} (hu : s.unit = .dump) (hp : some pos = some s.spos)
    (hk : ∃ t, k s = .next t) : ∃ t, whenSerializer pos k s = .next t := by
  have hpos := (Option.some.inj hp).symm
  by_cases hroom : s.sinkRoom = some 0
  · exact ⟨s, whenSerializer_waits hu hpos hroom⟩
  · rwa [whenSerializer_of hu hpos hroom]

/-! ## The selected row answers a next state -/

theorem exec_pEof_progress {s : State} (hu : s.unit = .load) (ch : Byte) : ∃ t, exec (.pEof ch) s = .next t :=
  ⟨_, whenLoading_of hu⟩

/-- A row of the parser's state runs; only the ten that store need the window. -/
theorem exec_parser_progress {i : Instr} {s : State} (hu : s.unit = .load) (hvalid : loadValid s.capacity s.pstart s.pend)
    (hrow : rowState i = some s.pstate) : ∃ t, exec i s = .next t := by
  cases i
  case pEof | nop | crc | load | dump | sAddr | sColon | sSpace | sHi | sLo | sEol | cByte | cLen | cFin => cases hrow
  case aLt => exact whenParser_progress hu hrow (aLtStep_progress s)
  case lHex07 | lHex89 | lHexUA | lHexUBUC | lHexUDUE | lHexUF | lHexLA | lHexLBLC | lHexLDLE | lHexLF =>
    exact whenParser_progress hu hrow (lHexStep_progress hvalid _)
  all_goals exact whenParser_progress hu hrow ⟨_, rfl⟩

theorem exec_serializer_progress {i : Instr} {s : State} (hu : s.unit = .dump) (hinv : Inv s) (hrow : rowPos i = some s.spos) :
    ∃ t, exec i s = .next t := by
  cases i
  case sSpace k => exact whenSerializer_progress hu hrow ⟨_, latchStep_next_iff.mpr ⟨dumpLine_windowIndex_lt hu hinv k, rfl⟩⟩
  case sEol => exact whenSerializer_progress hu hrow (endLineStep_progress s)
  case sAddr | sColon | sHi | sLo => exact whenSerializer_progress hu hrow ⟨_, rfl⟩
  all_goals cases hrow

/-! ## What the selectors select -/

theorem step_of_item {s s' : State} {x : Item} {i : Instr} (hfetch : fetch s = .item x s') (hdecode : decode x = .ok i) :
    step s = exec i s' := by
  simp [step, hfetch, hdecode]

/-- In parser state `p` a symbol selects the sentinel's row or a row of `p` (R141). -/
theorem decodeSym_selects (p : PState) (c : Sym) : (∃ ch, decodeSym p c = .pEof ch) ∨ rowState (decodeSym p c) = some p := by
  cases p <;> simp only [decodeSym, decodeAddress, decodeHigh, decodeLow] <;> cases symPat c
  case address.eof | byteHighNibble.eof | byteLowNibble.eof => exact .inl ⟨_, rfl⟩
  all_goals exact .inr rfl

/-- Every position of a line selects the row that emits it (R126 to R131). -/
theorem decodeSpos_selects (pos : LinePos) : ∃ i, decodeSpos (sposCode pos) = .ok i ∧ rowPos i = some pos := by
  have hall : ∀ pos : LinePos, (decodeSpos (sposCode pos)).toOption.bind rowPos = some pos := by decide
  have hpos := hall pos
  cases hdecode : decodeSpos (sposCode pos) with
  | ok i => exact ⟨i, rfl, by rwa [hdecode] at hpos⟩
  | error e => rw [hdecode] at hpos; cases hpos

/-! ## The units -/

theorem step_load_progress {s : State} (hu : s.unit = .load) (hinv : Inv s) : ∃ t, step s = .next t := by
  cases hget : symGet s with
  | none =>
    have hwait : fetch s = .waiting := by simp [fetch_load hu, fetchSym, hget]
    exact ⟨s, step_next_iff.mpr (.inl ⟨hwait, rfl⟩)⟩
  | some r =>
    obtain ⟨c, s'⟩ := r
    have hfetch : fetch s = .item (.sym s.pstate c) s' := fetch_item_iff.mpr (.inr (.inl ⟨hu, c, hget, rfl⟩))
    have hsame : s'.unit = s.unit ∧ s'.pstate = s.pstate := by
      obtain ⟨_, _, rfl⟩ | ⟨_, _, _, rfl⟩ := symGet_some_iff.mp hget <;> exact ⟨rfl, rfl⟩
    have hu' : s'.unit = .load := hsame.1.trans hu
    obtain ⟨_, hvalid, _⟩ := (inv_iff_of_load hu').mp (symGet_inv hinv hget)
    rw [step_of_item hfetch rfl]
    obtain ⟨ch, hch⟩ | hrow := decodeSym_selects s.pstate c
    · exact hch ▸ exec_pEof_progress hu' ch
    · exact exec_parser_progress hu' hvalid (hsame.2 ▸ hrow)

theorem step_dump_progress {s : State} (hu : s.unit = .dump) (hinv : Inv s) : ∃ t, step s = .next t := by
  obtain ⟨i, hdecode, hrow⟩ := decodeSpos_selects s.spos
  rw [step_of_item (fetch_dump hu) hdecode]
  exact exec_serializer_progress hu hinv hrow

theorem step_crc_progress {s : State} (hu : s.unit = .crc) (hinv : Inv s) : ∃ t, step s = .next t := by
  obtain ⟨_, hvalid, ⟨hp, hlt, _⟩ | ⟨hp, _⟩⟩ := (inv_iff_of_crc hu).mp hinv
  · rw [step_of_item (i := .cByte) (fetch_crc hu) (by rw [hp]; rfl)]
    exact ⟨_, (whenCrc_of hu hp).trans (absorbStep_next_iff.mpr ⟨Nat.lt_of_lt_of_le hlt hvalid, rfl⟩)⟩
  · by_cases hrem : s.crem = 0#32
    · rw [step_of_item (i := .cFin) (fetch_crc hu) (by rw [hp, hrem]; rfl)]
      exact ⟨_, (whenCrc_of hu hp : execCFin s = _).trans (if_pos hrem)⟩
    · have hfalse : (s.crem == 0#32) = false := beq_eq_false_iff_ne.mpr hrem
      rw [step_of_item (i := .cLen) (fetch_crc hu) (by rw [hp, hfalse]; rfl)]
      exact ⟨_, (whenCrc_of hu hp : execCLen s = _).trans (if_neg hrem)⟩

/-! ## The commands -/

/-- A command with a condition on its operands starts its unit or is refused under its own name (R108). -/
theorem whenIdle_guard {P : State → Prop} [DecidablePred P] {f : State → State} {r : Refusal} {s : State} (hu : s.unit = .idle) :
    (∃ t, whenIdle (fun s => if P s then .next (f s) else .refused r) s = .next t) ∨
      whenIdle (fun s => if P s then .next (f s) else .refused r) s = .refused r := by
  rw [whenIdle_of hu]
  by_cases hP : P s
  · exact .inl ⟨f s, if_pos hP⟩
  · exact .inr (if_neg hP)

theorem cmdCode_cases (code : BitVec 2) : code = 0#2 ∨ code = 1#2 ∨ code = 2#2 ∨ code = 3#2 := by
  revert code; decide

theorem step_idle_progress_or_refused {s : State} (hu : s.unit = .idle) :
    (∃ t, step s = .next t) ∨ ∃ rest,
      (s.host = .cmd 1#2 :: rest ∧ step s = .refused .invalidCrc) ∨
      (s.host = .cmd 2#2 :: rest ∧ step s = .refused .invalidLoad) ∨
      (s.host = .cmd 3#2 :: rest ∧ step s = .refused .invalidDump) := by
  have hcmd {code : BitVec 2} {rest : List HostWrite} (hhost : s.host = .cmd code :: rest) :
      step s = exec (decodeCmd code) { s with host := rest } :=
    step_of_item (fetch_item_iff.mpr (.inl ⟨hu, code, rest, hhost, rfl, rfl⟩)) rfl
  match hhost : s.host with
  | [] =>
    have hwait : fetch s = .waiting := by simp [fetch_idle hu, fetchHost, hhost]
    exact .inl ⟨s, step_next_iff.mpr (.inl ⟨hwait, rfl⟩)⟩
  | .argA v :: rest => exact .inl ⟨_, step_argA_write hu hhost⟩
  | .argB v :: rest => exact .inl ⟨_, step_argB_write hu hhost⟩
  | .cmd code :: rest =>
    rw [hcmd hhost]
    obtain rfl | rfl | rfl | rfl := cmdCode_cases code
    · exact .inl ⟨_, whenIdle_of hu⟩
    · exact (whenIdle_guard (P := fun s => crcValid s.capacity s.argA) (by exact hu)).imp_right fun h => ⟨rest, .inl ⟨rfl, h⟩⟩
    · exact (whenIdle_guard (P := fun s => loadValid s.capacity s.argA s.argB) (by exact hu)).imp_right fun h =>
        ⟨rest, .inr (.inl ⟨rfl, h⟩)⟩
    · exact (whenIdle_guard (P := fun s => dumpValid s.capacity s.argA s.argB) (by exact hu)).imp_right fun h =>
        ⟨rest, .inr (.inr ⟨rfl, h⟩)⟩

/-- Settles O46: a running unit always has a next state; an idle machine has one unless the host's command is refused. -/
theorem invariantExcludesFaults : Obligations.InvariantExcludesFaults := by
  unfold Obligations.InvariantExcludesFaults
  intro s hinv
  obtain hu | hu | hu | hu := unit_cases s
  · exact (step_idle_progress_or_refused hu).imp_right fun h => ⟨hu, h⟩
  · exact .inl (step_load_progress hu hinv)
  · exact .inl (step_dump_progress hu hinv)
  · exact .inl (step_crc_progress hu hinv)

end Sys2Proof.Safety
end

section
/-! PROOFS (30_encoding, R70, R74, R76, R78). Symbols and characters. Bit 8 of a symbol says whether it is the sentinel; without it the
eight bits of the character decide the pattern, and with the pattern's free bits they give the symbol back. -/

namespace Sys2Proof

open Sys2Proof.Machine

/-! ## The two kinds of symbol (R70) -/

/-- Bit 8 set makes a symbol the sentinel over some character, bit 8 clear makes it a character. -/
theorem eofSym_or_charSym (c : Sym) : (∃ ch, c = eofSym ch) ∨ ∃ ch, c = charSym ch := by
  have hsplit : c.extractLsb' 8 1 ++ symCh c = c := BitVec.extractLsb'_append_extractLsb'
  obtain hbit | hbit := BitVec.eq_zero_or_eq_one (c.extractLsb' 8 1) <;> rw [hbit] at hsplit
  · exact .inr ⟨symCh c, hsplit.symm⟩
  · exact .inl ⟨symCh c, hsplit.symm⟩

@[simp] theorem symCh_eofSym (ch : Byte) : symCh (eofSym ch) = ch := BitVec.extractLsb'_append_eq_right

@[simp] theorem symCh_charSym (ch : Byte) : symCh (charSym ch) = ch := BitVec.extractLsb'_append_eq_right

theorem eofSym_bit8 (ch : Byte) : (eofSym ch).getLsbD 8 = true := BitVec.getLsbD_append

theorem charSym_bit8 (ch : Byte) : (charSym ch).getLsbD 8 = false := BitVec.getLsbD_append

/-! ## Patterns and classes (R74) -/

/-- The first row of the table asks for bit 8 alone. -/
@[simp] theorem symPat_eofSym (ch : Byte) : symPat (eofSym ch) = .eof := by revert ch; decide

@[simp] theorem classify_eofSym (ch : Byte) : classify (eofSym ch) = .eof := by rw [classify, symPat_eofSym]; rfl

theorem classify_charSym_ne_eof (ch : Byte) : classify (charSym ch) ≠ .eof := by revert ch; decide

theorem classify_charSym_hex_iff (ch : Byte) : classify (charSym ch) = .hex ↔ isHexDigit ch := by revert ch; decide

theorem classify_charSym_sp_iff (ch : Byte) : classify (charSym ch) = .sp ↔ ch = 0x20#8 := by revert ch; decide

theorem classify_charSym_colon_iff (ch : Byte) : classify (charSym ch) = .colon ↔ ch = 0x3A#8 := by revert ch; decide

theorem classify_charSym_lt_iff (ch : Byte) : classify (charSym ch) = .lt ↔ ch = 0x0A#8 := by revert ch; decide

/-- `OTHER` is what the other five classes leave. -/
theorem classify_charSym_other_iff (ch : Byte) : classify (charSym ch) = .other ↔ isOther ch := by
  rw [isOther, ← classify_charSym_hex_iff, ne_eq, ← classify_charSym_sp_iff, ne_eq, ← classify_charSym_colon_iff, ne_eq,
    ← classify_charSym_lt_iff]
  have hchar := classify_charSym_ne_eof ch
  cases hc : classify (charSym ch)
  case eof => exact absurd hc hchar
  all_goals simp

/-- `OTHER` is the one pattern of its class. -/
theorem symPat_eq_other_iff {c : Sym} : symPat c = .other ↔ classify c = .other := by
  rw [classify]
  cases symPat c <;> simp [SymPat.cls]

theorem symPat_of_isOther {ch : Byte} (h : isOther ch) : symPat (charSym ch) = .other :=
  symPat_eq_other_iff.mpr ((classify_charSym_other_iff ch).mpr h)

theorem isOther_of_symPat {c : Sym} (h : symPat c = .other) : isOther (symCh c) := by
  obtain ⟨ch, rfl⟩ | ⟨ch, rfl⟩ := eofSym_or_charSym c
  · rw [symPat_eofSym] at h; cases h
  · rw [symCh_charSym]; exact (classify_charSym_other_iff ch).mp (symPat_eq_other_iff.mp h)

/-- Settles O4: bit 8 alone decides the class of the sentinel, the character alone the other five. -/
theorem symbolClassesMatchConditions : Obligations.SymbolClassesMatchConditions := by
  unfold Obligations.SymbolClassesMatchConditions
  intro c
  obtain ⟨ch, rfl⟩ | ⟨ch, rfl⟩ := eofSym_or_charSym c
  · simp only [classify_eofSym, eofSym_bit8, reduceCtorEq, Bool.true_eq_false, false_and, and_self]
  · simp only [classify_charSym_ne_eof, classify_charSym_hex_iff, classify_charSym_sp_iff, classify_charSym_colon_iff,
      classify_charSym_lt_iff, classify_charSym_other_iff, charSym_bit8, symCh_charSym, Bool.false_eq_true, true_and, and_self]

/-! ## The bits of a pattern's row -/

/-- The symbol with the fixed bits of the pattern's row and, where the row leaves bits free, those of `c` (R74, R84). -/
def SymPat.sym (c : Sym) : SymPat → Sym
  | .eof => eofSym (symCh c)
  | .d07 => charSym (ch07 (symLow3 c))
  | .d89 => charSym (ch89 (symLow1 c))
  | .uA => charSym chUA
  | .uBuC => charSym (chUBUC (symLow1 c))
  | .uDuE => charSym (chUDUE (symLow1 c))
  | .uF => charSym chUF
  | .lA => charSym chLA
  | .lBlC => charSym (chLBLC (symLow1 c))
  | .lDlE => charSym (chLDLE (symLow1 c))
  | .lF => charSym chLF
  | .sp => charSym chSp
  | .colon => charSym chColon
  | .lt => charSym chLt
  | .other => charSym (symCh c)

/-- A symbol's pattern and its free bits give it back: no row drops a bit. -/
theorem sym_symPat (c : Sym) : (symPat c).sym c = c := by
  obtain ⟨ch, rfl⟩ | ⟨ch, rfl⟩ := eofSym_or_charSym c
  · rw [symPat_eofSym, SymPat.sym, symCh_eofSym]
  · revert ch; decide

/-! ## Digits and characters (R76, R78) -/

/-- Bit 6 of a hex digit tells the letters from the decimal digits (R76). -/
theorem hexval_of_isHexDigit (ch : Byte) (h : isHexDigit ch) :
    hexval ch = if ch.getLsbD 6 then ch.setWidth 4 + 9#4 else ch.setWidth 4 := by
  revert ch; decide

theorem hexchar_toNat (n : Nibble) : (hexchar n).toNat = if n.toNat < 10 then 0x30 + n.toNat else 0x57 + n.toNat := by
  revert n; decide

theorem isHexDigit_hexchar (n : Nibble) : isHexDigit (hexchar n) := by revert n; decide

theorem hexval_hexchar (n : Nibble) : hexval (hexchar n) = n := by revert n; decide

/-- Settles O5: the serializer's digits are read back by the parser. -/
theorem hexDigitsConvertBothWays : Obligations.HexDigitsConvertBothWays := by
  unfold Obligations.HexDigitsConvertBothWays
  refine ⟨hexval_of_isHexDigit, fun n => ⟨fun hlt => ?_, fun hge => ?_, isHexDigit_hexchar n, hexval_hexchar n⟩⟩
  · rw [hexchar_toNat, if_pos hlt]
  · rw [hexchar_toNat, if_neg (Nat.not_lt.mpr hge)]

end Sys2Proof
end

section
/-! PROOFS (30_encoding, R70 to R74, R79, R83, R84, R126 to R131, R185 to R187). The decoder against the encoder, format by format. In each parser
state a symbol's pattern selects a row of that state, whose encoding is the symbol of that pattern; a position selects the row that emits it. -/

namespace Sys2Proof

open Sys2Proof.Machine Sys2Proof.Safety

/-! ## Symbols -/

/-- The sentinel selects `P.EOF` in every parser state (R142). -/
theorem decodeSym_eofSym (p : PState) (ch : Byte) : decodeSym p (eofSym ch) = .pEof ch := by
  cases p <;> simp only [decodeSym, decodeAddress, decodeHigh, decodeLow, symPat_eofSym, symCh_eofSym]

/-- Every row but `P.EOF` is encoded under its own state, with the bits of its pattern. -/
theorem encode_decodeSym {p : PState} {c : Sym} (hne : ∀ ch, decodeSym p c ≠ .pEof ch) : encode (decodeSym p c) = .sym p c := by
  have hrow : encode (decodeSym p c) = .sym p ((symPat c).sym c) := by
    cases p <;> simp only [decodeSym, decodeAddress, decodeHigh, decodeLow] at hne ⊢ <;> cases hpat : symPat c
    case address.eof | byteHighNibble.eof | byteLowNibble.eof => exact absurd (by rw [hpat]) (hne (symCh c))
    all_goals rfl
  rw [hrow, sym_symPat]

theorem decodeSym_wf (p : PState) (c : Sym) : (decodeSym p c).wf = true := by
  cases p <;> simp only [decodeSym, decodeAddress, decodeHigh, decodeLow] <;> cases hpat : symPat c
  case address.other | byteHighNibble.other | byteLowNibble.other => exact decide_eq_true (isOther_of_symPat hpat)
  all_goals rfl

/-! ## Positions -/

/-- A position of the line selects the row that emits it. -/
theorem decodeSpos_of_lt {pos : BitVec 6} (h : pos.toNat < 56) :
    ∃ i p, decodeSpos pos = .ok i ∧ pos = sposCode p ∧ rowPos i = some p := by
  have hpos : pos = sposCode ⟨pos.toNat, h⟩ := (BitVec.ofNat_toNat 6 pos).symm
  obtain ⟨i, hdecode, hrow⟩ := decodeSpos_selects ⟨pos.toNat, h⟩
  exact ⟨i, _, by rwa [← hpos] at hdecode, hpos, hrow⟩

theorem decodeSpos_of_ge {pos : BitVec 6} (h : 56 ≤ pos.toNat) : decodeSpos pos = .error .reservedSpos := by
  have hdigit : ¬ pos.toNat < 6 := by omega
  have hcolon : pos.toNat ≠ 6 := by omega
  have hbyte : ¬ pos.toNat < 55 := by omega
  have heol : pos.toNat ≠ 55 := by omega
  simp [decodeSpos, hdigit, hcolon, hbyte, heol]

theorem decodeSpos_ok {pos : BitVec 6} {i : Instr} (h : decodeSpos pos = .ok i) : ∃ p, pos = sposCode p ∧ rowPos i = some p := by
  obtain hlt | hge := Nat.lt_or_ge pos.toNat 56
  · obtain ⟨j, p, hj, hpos, hrow⟩ := decodeSpos_of_lt hlt
    rw [h] at hj
    cases hj
    exact ⟨p, hpos, hrow⟩
  · rw [decodeSpos_of_ge hge] at h
    cases h

theorem decodeSpos_eq_reserved_iff (pos : BitVec 6) : decodeSpos pos = .error .reservedSpos ↔ 56 ≤ pos.toNat := by
  refine ⟨fun h => ?_, decodeSpos_of_ge⟩
  by_contra hlt
  obtain ⟨i, _, hi, _⟩ := decodeSpos_of_lt (Nat.not_le.mp hlt)
  rw [h] at hi
  cases hi

theorem encode_of_rowPos {i : Instr} {p : LinePos} (h : rowPos i = some p) : encode i = .spos (sposCode p) := by
  cases i <;> cases h <;> rfl

theorem wf_of_rowPos {i : Instr} {p : LinePos} (h : rowPos i = some p) : i.wf = true := by
  cases i <;> cases h <;> rfl

theorem decodeSpos_posAddr (k : AddrIdx) : decodeSpos (sposCode (posAddr k)) = .ok (.sAddr k) := by revert k; decide

theorem decodeSpos_posSpace (i : ByteIdx) : decodeSpos (sposCode (posSpace i)) = .ok (.sSpace i) := by revert i; decide

theorem decodeSpos_posHi (i : ByteIdx) : decodeSpos (sposCode (posHi i)) = .ok (.sHi i) := by revert i; decide

theorem decodeSpos_posLo (i : ByteIdx) : decodeSpos (sposCode (posLo i)) = .ok (.sLo i) := by revert i; decide

/-! ## Commands and phases -/

theorem encode_decodeCmd (code : BitVec 2) : encode (decodeCmd code) = .cmd code := by
  obtain rfl | rfl | rfl | rfl := cmdCode_cases code <;> rfl

theorem decodeCmd_wf (code : BitVec 2) : (decodeCmd code).wf = true := by
  obtain rfl | rfl | rfl | rfl := cmdCode_cases code <;> rfl

/-- All a phase can select (R185 to R187). -/
theorem decodeCphase_ok {phase : BitVec 2} {z : Bool} {i : Instr} (h : decodeCphase phase z = .ok i) :
    i = .cByte ∨ (phase = 1#2 ∧ z = false ∧ i = .cLen) ∨ (phase = 1#2 ∧ z = true ∧ i = .cFin) := by
  obtain rfl | rfl | rfl | rfl := cmdCode_cases phase
  · cases h; exact .inl rfl
  · cases z <;> cases h
    · exact .inr (.inl ⟨rfl, rfl, rfl⟩)
    · exact .inr (.inr ⟨rfl, rfl, rfl⟩)
  · cases h
  · cases h

/-! ## The statements -/

/-- Settles O1: the characters of an `OTHER` row are recognised by their class, the few free bits of the other rows by their values. -/
theorem decodeOfEncodeIsIdentity : Obligations.DecodeOfEncodeIsIdentity := by
  unfold Obligations.DecodeOfEncodeIsIdentity
  intro i hwf
  cases i
  case pEof ch => exact congrArg Except.ok (decodeSym_eofSym .address ch)
  case aOther ch | hOther ch | lOther ch =>
    simp only [encode, decode, decodeSym, decodeAddress, decodeHigh, decodeLow, symPat_of_isOther (of_decide_eq_true hwf), symCh_charSym]
  case aHex07 lo | aHex89 lo | aHexUBUC lo | aHexUDUE lo | aHexLBLC lo | aHexLDLE lo | hHex07 lo | hHex89 lo | hHexUBUC lo
      | hHexUDUE lo | hHexLBLC lo | hHexLDLE lo | lHex07 lo | lHex89 lo | lHexUBUC lo | lHexUDUE lo | lHexLBLC lo | lHexLDLE lo =>
    revert lo; decide
  case sAddr k => exact decodeSpos_posAddr k
  case sSpace k => exact decodeSpos_posSpace k
  case sHi k => exact decodeSpos_posHi k
  case sLo k => exact decodeSpos_posLo k
  all_goals rfl

/-- Settles O2: each format's decoder keeps every bit of its item, but for the two rows the statement leaves out. -/
theorem encodeRecoversTheDecodedItem : Obligations.EncodeRecoversTheDecodedItem := by
  unfold Obligations.EncodeRecoversTheDecodedItem
  intro x i hdecode heof hbyte
  cases x with
  | cmd code => cases hdecode; exact encode_decodeCmd code
  | sym p c => cases hdecode; exact encode_decodeSym heof
  | spos pos =>
    obtain ⟨p, rfl, hrow⟩ := decodeSpos_ok hdecode
    exact encode_of_rowPos hrow
  | cphase phase z =>
    obtain rfl | ⟨rfl, rfl, rfl⟩ | ⟨rfl, rfl, rfl⟩ := decodeCphase_ok hdecode
    · exact absurd rfl hbyte
    · rfl
    · rfl

/-- Settles O3: only an `OTHER` row asks for anything, and its pattern is met by the characters of its class alone. -/
theorem decodedInstructionsAreWellFormed : Obligations.DecodedInstructionsAreWellFormed := by
  unfold Obligations.DecodedInstructionsAreWellFormed
  intro x i hdecode
  cases x with
  | cmd code => cases hdecode; exact decodeCmd_wf code
  | sym p c => cases hdecode; exact decodeSym_wf p c
  | spos pos =>
    obtain ⟨_, _, hrow⟩ := decodeSpos_ok hdecode
    exact wf_of_rowPos hrow
  | cphase phase z =>
    obtain rfl | ⟨_, _, rfl⟩ | ⟨_, _, rfl⟩ := decodeCphase_ok hdecode <;> rfl

/-- Settles O6: the decoder is run on each word. -/
theorem writtenOutWordsDecode : Obligations.WrittenOutWordsDecode := by
  unfold Obligations.WrittenOutWordsDecode
  exact ⟨rfl, rfl, rfl, rfl, rfl, rfl, rfl, rfl, rfl, rfl, rfl, rfl, rfl⟩

/-- Settles O7: the symbols' and the commands' decoders reject nothing. -/
theorem reservedSelectorsSelectNothing : Obligations.ReservedSelectorsSelectNothing := by
  unfold Obligations.ReservedSelectorsSelectNothing
  exact ⟨decodeSpos_eq_reserved_iff, fun _ => ⟨rfl, rfl⟩, fun p c => ⟨decodeSym p c, rfl⟩, fun code => ⟨decodeCmd code, rfl⟩⟩

end Sys2Proof
end

section
/-! PROOFS (30_encoding, 40_commands, R101, R107, R141). Which row each unit runs next: what the unit fetches, decoded. -/

namespace Sys2Proof.Machine

open Sys2Proof.Safety

theorem step_cmd {s : State} {code : BitVec 2} {rest : List HostWrite} (hu : s.unit = .idle) (hhost : s.host = .cmd code :: rest) :
    step s = exec (decodeCmd code) { s with host := rest } :=
  step_of_item (fetch_item_iff.mpr (.inl ⟨hu, code, rest, hhost, rfl, rfl⟩)) rfl

theorem step_symGet {s t : State} {c : Sym} (hu : s.unit = .load) (hget : symGet s = some (c, t)) :
    step s = exec (decodeSym s.pstate c) t :=
  step_of_item (fetch_item_iff.mpr (.inr (.inl ⟨hu, c, hget, rfl⟩))) rfl

theorem step_spos {s : State} {pos : LinePos} {i : Instr} (hu : s.unit = .dump) (hpos : s.spos = pos)
    (hdecode : decodeSpos (sposCode pos) = .ok i) : step s = exec i s :=
  step_of_item (fetch_dump hu) (hpos ▸ hdecode)

theorem step_cphase {s : State} {ph : CPhase} {i : Instr} (hu : s.unit = .crc) (hph : s.cphase = ph)
    (hdecode : decodeCphase ph.code (s.crem == 0#32) = .ok i) : step s = exec i s :=
  step_of_item (fetch_crc hu) (hph ▸ hdecode)

/-- Settles O9: each clause is one unit's fetch and the row its selector decodes to. -/
theorem onlyTheRunningUnitSteps : Obligations.OnlyTheRunningUnitSteps := by
  unfold Obligations.OnlyTheRunningUnitSteps
  refine ⟨fun s code rest => step_cmd, fun s c rest hu hin => ?input, fun s hu hin hend => ?ended, fun s k hu hpos => ?addr,
    fun s hu hpos => ?colon, fun s i hu hpos => ?space, fun s i hu hpos => ?hi, fun s i hu hpos => ?lo, fun s hu hpos => ?eol,
    fun s hu hph => ?byte, fun s hu hph hrem => ?len, fun s hu hph hrem => ?fin⟩
  case input => exact step_symGet hu (symGet_some_iff.mpr (.inl ⟨rest, hin, rfl⟩))
  case ended =>
    rw [step_symGet hu (symGet_some_iff.mpr (.inr ⟨hin, hend, rfl, rfl⟩)), decodeSym_eofSym]
  case addr => exact step_spos hu hpos (decodeSpos_posAddr k)
  case colon => exact step_spos hu hpos rfl
  case space => exact step_spos hu (Fin.ext hpos) (decodeSpos_posSpace i)
  case hi => exact step_spos hu (Fin.ext hpos) (decodeSpos_posHi i)
  case lo => exact step_spos hu (Fin.ext hpos) (decodeSpos_posLo i)
  case eol => exact step_spos hu hpos rfl
  case byte => exact step_cphase hu hph rfl
  case len => exact step_cphase hu hph (by rw [beq_eq_false_iff_ne.mpr hrem]; rfl)
  case fin => exact step_cphase hu hph (by rw [hrem]; rfl)

end Sys2Proof.Machine
end

section
/-! PROOFS (40_commands, R29, R107, R125, R135, R140, R141, R184, R189). Frames: what a parser step and the start of a command leave as they were.
The serializer's and the CRC unit's frames are `exec_serializer_frame` and `exec_crc_frame`. -/

namespace Sys2Proof.Safety

open Sys2Proof.Machine

/-! ## The units -/

/-- A load error records its cause in `pstatus` and `perrch` and ends the load (R207). -/
theorem raiseLoadError_frame (e : LoadError) (s : State) :
    raiseLoadError e s =
      { s with unit := .idle, pstatus := (raiseLoadError e s).pstatus, perrch := (raiseLoadError e s).perrch } := by
  cases e <;> rfl

/-- The second digit completes the byte, then stores it or ends the load (R153). -/
theorem lHexStep_frame {d : Nibble} {s t : State} (h : lHexStep d s = .next t) :
    t = { s with img := t.img, unit := t.unit, pstate := t.pstate, paddr := t.paddr, pbyte := t.pbyte, pcount := t.pcount,
                 pstatus := t.pstatus } := by
  obtain ⟨_, _, rfl⟩ | ⟨_, rfl⟩ := lHexStep_next_iff.mp h <;> rfl

/-- A parser step writes the image, the parser's registers but the window, and `unit` (R29, R141). -/
theorem exec_parser_frame {i : Instr} {s t : State} (hi : isParserStep i = true) (h : exec i s = .next t) :
    t = { s with img := t.img, unit := t.unit, pstate := t.pstate, paddr := t.paddr, pbyte := t.pbyte, pcount := t.pcount,
                 pseen := t.pseen, pstatus := t.pstatus, perrch := t.perrch } := by
  obtain ⟨_, rfl | ⟨_, _, _, rfl⟩ | ⟨_, rfl⟩ | ⟨_, _, _, rfl⟩ | ⟨e, rfl, _⟩ | ⟨_, _, rfl⟩ | ⟨_, _, rfl⟩ | ⟨_, _, _, hstore⟩⟩ :=
    exec_parser_cases hi h
  · rfl
  · rfl
  · rfl
  · rfl
  · rw [raiseLoadError_frame]
  · rfl
  · rfl
  · rw [lHexStep_frame hstore]

/-- Settles O38: with the registers of the frame put back, the next state is the old one. -/
theorem parserStepFrame : Obligations.ParserStepFrame := by
  unfold Obligations.ParserStepFrame
  intro i s t hi h
  rw [exec_parser_frame hi h]

/-- Settles O39: the serializer's frame, its registers put back. -/
theorem serializerStepFrame : Obligations.SerializerStepFrame := by
  unfold Obligations.SerializerStepFrame
  intro i s t hi h
  rw [exec_serializer_frame hi h]

/-- Settles O40: the CRC unit's frame, its registers put back. -/
theorem crcStepFrame : Obligations.CrcStepFrame := by
  unfold Obligations.CrcStepFrame
  intro i s t hi h
  rw [exec_crc_frame hi h]

/-! ## The commands -/

/-- A command with a condition on its operands answers no next state but the start of its unit. -/
theorem whenIdle_guard_next {P : State → Prop} [DecidablePred P] {f : State → State} {r : Refusal} {s t : State}
    (h : whenIdle (fun s => if P s then .next (f s) else .refused r) s = .next t) : t = f s := by
  obtain ⟨_, hk⟩ := whenIdle_next_iff.mp h
  split at hk
  · cases hk; rfl
  · cases hk

theorem exec_nop_next {s t : State} (h : exec .nop s = .next t) : t = s := by
  obtain ⟨_, hk⟩ := whenIdle_next_iff.mp (show execNop s = _ from h)
  cases hk; rfl

theorem exec_crc_next {s t : State} (h : exec .crc s = .next t) : t = startCrc s.argA s :=
  whenIdle_guard_next (P := fun s => crcValid s.capacity s.argA) h

theorem exec_load_next {s t : State} (h : exec .load s = .next t) : t = startLoad s.argA s.argB s :=
  whenIdle_guard_next (P := fun s => loadValid s.capacity s.argA s.argB) h

theorem exec_dump_next {s t : State} (h : exec .dump s = .next t) : t = startDump s.argA s.argB s :=
  whenIdle_guard_next (P := fun s => dumpValid s.capacity s.argA s.argB) h

/-- The start of a DUMP as one update (R125). -/
theorem startDump_eq (start stop : Word) (s : State) :
    startDump start stop s =
      { s with unit := if stop ≤ start then .idle else .dump, sstart := start, send := stop, sline := start, spos := 0 } := by
  by_cases hempty : stop ≤ start <;> simp [startDump, finish, hempty]

/-- Settles O41: the only next state of a command is the start of its unit, which is one update of the named registers. -/
theorem commandFrame : Obligations.CommandFrame := by
  unfold Obligations.CommandFrame
  intro s t
  refine ⟨exec_nop_next, fun h => ?crc, fun h => ?load, fun h => ?dump⟩
  case crc => rw [exec_crc_next h]; rfl
  case load => rw [exec_load_next h]; rfl
  case dump => rw [exec_dump_next h, startDump_eq]

end Sys2Proof.Safety
end

section
/-! PROOFS (40_commands, R101, R102, R107, R108, R141, R216, R240). Running, waiting and refusing. A step runs what it fetched or keeps the state as
it is; a row is refused exactly when its selector does not hold, since its rule refuses nothing; a command of an idle machine is refused exactly
when its operands are invalid. -/

namespace Sys2Proof.Safety

open Sys2Proof.Machine

/-! ## Running and waiting -/

/-- Settles O8: `step` is fetch, decode, exec. -/
theorem stepRunsTheDecodedInstruction : Obligations.StepRunsTheDecodedInstruction := by
  unfold Obligations.StepRunsTheDecodedInstruction
  exact fun _ _ _ _ hfetch hdecode _ => step_of_item hfetch hdecode

theorem step_of_waiting {s : State} (h : fetch s = .waiting) : step s = .next s := step_next_iff.mpr (.inl ⟨h, rfl⟩)

theorem fetch_idle_waiting {s : State} (hu : s.unit = .idle) (hhost : s.host = []) : fetch s = .waiting := by
  simp [fetch_idle hu, fetchHost, hhost]

theorem fetch_load_waiting {s : State} (hu : s.unit = .load) (hin : s.input = []) (hend : s.inputEnded = false) :
    fetch s = .waiting := by
  simp [fetch_load hu, fetchSym, symGet, hin, hend]

theorem rowPos_of_decodeSpos {pos : LinePos} {i : Instr} (h : decodeSpos (sposCode pos) = .ok i) : rowPos i = some pos := by
  obtain ⟨j, hj, hrow⟩ := decodeSpos_selects pos
  cases h.symm.trans hj
  exact hrow

/-- The serializer row that is due waits while the sink takes nothing (R107, R240). -/
theorem exec_serializer_waits {i : Instr} {s : State} (hu : s.unit = .dump) (hrow : rowPos i = some s.spos)
    (hroom : s.sinkRoom = some 0) : exec i s = .next s := by
  cases i
  case sAddr | sColon | sSpace | sHi | sLo | sEol => exact whenSerializer_waits hu (Option.some.inj hrow).symm hroom
  all_goals cases hrow

/-- Settles O10: the host and the source give nothing to fetch; a full sink makes the row that is due wait. -/
theorem waitingKeepsAllState : Obligations.WaitingKeepsAllState := by
  unfold Obligations.WaitingKeepsAllState
  refine ⟨fun s hu hhost => step_of_waiting (fetch_idle_waiting hu hhost),
    fun s hu hin hend => step_of_waiting (fetch_load_waiting hu hin hend), fun s hu hroom => ?_⟩
  have hwaits : ∀ i, decode (.spos (sposCode s.spos)) = .ok i → exec i s = .next s := fun i hdecode =>
    exec_serializer_waits hu (rowPos_of_decodeSpos hdecode) hroom
  obtain ⟨i, hdecode, _⟩ := decodeSpos_selects s.spos
  exact ⟨(step_spos hu rfl hdecode).trans (hwaits i hdecode), hwaits⟩

/-! ## The operands of a command -/

/-- Settles O12: an accepted NOP answers the state it was given. -/
theorem nopChangesNothing : Obligations.NopChangesNothing := by
  unfold Obligations.NopChangesNothing
  exact ⟨rfl, fun _ hu => whenIdle_of hu⟩

/-- In the idle state a command is refused under its own name exactly when its condition fails (R108). -/
theorem whenIdle_guard_refused_iff {P : State → Prop} [DecidablePred P] {f : State → State} {r : Refusal} {s : State}
    (hu : s.unit = .idle) :
    whenIdle (fun s => if P s then .next (f s) else .refused r) s = .refused r ↔ ¬ P s := by
  rw [whenIdle_of hu]
  by_cases hP : P s <;> simp [hP]

theorem exec_crc_refused_iff {s : State} (hu : s.unit = .idle) :
    exec .crc s = .refused .invalidCrc ↔ ¬ crcValid s.capacity s.argA :=
  whenIdle_guard_refused_iff (P := fun s => crcValid s.capacity s.argA) hu

theorem exec_load_refused_iff {s : State} (hu : s.unit = .idle) :
    exec .load s = .refused .invalidLoad ↔ ¬ loadValid s.capacity s.argA s.argB :=
  whenIdle_guard_refused_iff (P := fun s => loadValid s.capacity s.argA s.argB) hu

theorem exec_dump_refused_iff {s : State} (hu : s.unit = .idle) :
    exec .dump s = .refused .invalidDump ↔ ¬ dumpValid s.capacity s.argA s.argB :=
  whenIdle_guard_refused_iff (P := fun s => dumpValid s.capacity s.argA s.argB) hu

/-- Settles O16: each condition of R109 to R111, negated part by part. -/
theorem invalidOperandsAreRefused : Obligations.InvalidOperandsAreRefused := by
  unfold Obligations.InvalidOperandsAreRefused
  intro s hu
  refine ⟨?crc, ?load, ?dump⟩
  case crc => rw [exec_crc_refused_iff hu, Nat.not_le]
  case load => rw [exec_load_refused_iff hu, not_and_or, Nat.not_le, Nat.not_le]
  case dump => simp only [exec_dump_refused_iff hu, dumpValid_iff, not_and_or, Nat.not_le, ne_eq]

/-! ## The selectors -/

theorem whenIdle_busy_iff {k : State → Result} {s : State} (hk : k s ≠ .refused .busy) :
    whenIdle k s = .refused .busy ↔ s.unit ≠ .idle := by
  unfold whenIdle; split <;> simp_all

/-- A command whose own refusal has another name is refused as busy exactly while a unit runs (R101). -/
theorem whenIdle_guard_busy_iff {P : State → Prop} [DecidablePred P] {f : State → State} {r : Refusal} {s : State} (hr : r ≠ .busy) :
    whenIdle (fun s => if P s then .next (f s) else .refused r) s = .refused .busy ↔ s.unit ≠ .idle := by
  refine whenIdle_busy_iff ?_
  by_cases hP : P s <;> simp [hP, hr]

theorem exec_command_busy_iff {i : Instr} {s : State} (hi : isCommand i = true) :
    exec i s = .refused .busy ↔ s.unit ≠ .idle := by
  cases i
  case nop => exact whenIdle_busy_iff nofun
  case crc => exact whenIdle_guard_busy_iff (P := fun s => crcValid s.capacity s.argA) nofun
  case load => exact whenIdle_guard_busy_iff (P := fun s => loadValid s.capacity s.argA s.argB) nofun
  case dump => exact whenIdle_guard_busy_iff (P := fun s => dumpValid s.capacity s.argA s.argB) nofun
  all_goals cases hi

theorem exec_pEof_refused_iff (ch : Byte) (s : State) : exec (.pEof ch) s = .refused .notEnabled ↔ s.unit ≠ .load :=
  whenLoading_refused_iff (errorStep_ne_refused .unknown s)

theorem exec_parser_refused_iff {i : Instr} {p : PState} {s : State} (hrow : rowState i = some p) :
    exec i s = .refused .notEnabled ↔ ¬ (s.unit = .load ∧ s.pstate = p) := by
  cases i <;> cases hrow
  case aLt => exact whenParser_refused_iff (aLtStep_ne_refused s)
  case lHex07 | lHex89 | lHexUA | lHexUBUC | lHexUDUE | lHexUF | lHexLA | lHexLBLC | lHexLDLE | lHexLF =>
    exact whenParser_refused_iff (lHexStep_ne_refused _ s)
  all_goals exact whenParser_refused_iff nofun

theorem exec_serializer_refused_iff {i : Instr} {pos : LinePos} {s : State} (hrow : rowPos i = some pos) :
    exec i s = .refused .notEnabled ↔ ¬ (s.unit = .dump ∧ s.spos = pos) := by
  cases i <;> cases hrow
  case sSpace k => exact whenSerializer_refused_iff (latchStep_ne_refused k s)
  case sEol => exact whenSerializer_refused_iff (endLineStep_ne_refused s)
  case sAddr | sColon | sHi | sLo => exact whenSerializer_refused_iff nofun

theorem exec_cByte_refused_iff (s : State) : exec .cByte s = .refused .notEnabled ↔ ¬ (s.unit = .crc ∧ s.cphase = .cData) :=
  whenCrc_refused_iff.trans (or_iff_left (absorbStep_ne_refused s _))

/-- A row whose rule refuses outside `P` has `P` in its selector. -/
theorem whenCrc_refused_iff_of {ph : CPhase} {k : State → Result} {s : State} {P : Prop} (hk : k s = .refused .notEnabled ↔ ¬ P) :
    whenCrc ph k s = .refused .notEnabled ↔ ¬ (s.unit = .crc ∧ s.cphase = ph ∧ P) := by
  rw [whenCrc_refused_iff, hk, ← not_and_or, and_assoc]

theorem exec_cLen_refused_iff (s : State) :
    exec .cLen s = .refused .notEnabled ↔ ¬ (s.unit = .crc ∧ s.cphase = .cLen ∧ s.crem ≠ 0#32) := by
  refine whenCrc_refused_iff_of (k := fun s => if s.crem = 0#32 then .refused .notEnabled else foldLenStep s) ?_
  by_cases hrem : s.crem = 0#32 <;> simp [hrem, foldLenStep]

theorem exec_cFin_refused_iff (s : State) :
    exec .cFin s = .refused .notEnabled ↔ ¬ (s.unit = .crc ∧ s.cphase = .cLen ∧ s.crem = 0#32) := by
  refine whenCrc_refused_iff_of (k := fun s => if s.crem = 0#32 then deliverStep s else .refused .notEnabled) ?_
  by_cases hrem : s.crem = 0#32 <;> simp [hrem, deliverStep]

theorem isParserStep_selector {i : Instr} (hi : isParserStep i = true) : (∃ ch, i = .pEof ch) ∨ (rowState i).isSome = true := by
  cases i
  case pEof ch => exact .inl ⟨ch, rfl⟩
  case nop | crc | load | dump | sAddr | sColon | sSpace | sHi | sLo | sEol | cByte | cLen | cFin => cases hi
  all_goals exact .inr rfl

theorem isSerializerStep_selector {i : Instr} (hi : isSerializerStep i = true) : (rowPos i).isSome = true := by
  cases i <;> cases hi <;> rfl

theorem isCrcStep_cases {i : Instr} (hi : isCrcStep i = true) : i = .cByte ∨ i = .cLen ∨ i = .cFin := by
  cases i <;> cases hi <;> simp

/-- Settles O35: one lemma per kind of selector, and one per unit that says its rows have one. -/
theorem unselectedStepsAreRefused : Obligations.UnselectedStepsAreRefused := by
  unfold Obligations.UnselectedStepsAreRefused
  intro s i
  exact ⟨exec_command_busy_iff, fun ch hi => hi ▸ exec_pEof_refused_iff ch s, fun _ => exec_parser_refused_iff,
    fun _ => exec_serializer_refused_iff, fun hi => hi ▸ exec_cByte_refused_iff s, fun hi => hi ▸ exec_cLen_refused_iff s,
    fun hi => hi ▸ exec_cFin_refused_iff s, isParserStep_selector, isSerializerStep_selector, isCrcStep_cases⟩

end Sys2Proof.Safety
end

section
/-! PROOFS (40_commands, R107). Runs of the machine: one step is a run, and two runs in a row are one. -/

namespace Sys2Proof.Machine

/-- `n` steps lead from `s` to `t`. -/
def Runs (n : Nat) (s t : State) : Prop := core.run n s = .next t

theorem Runs.refl (s : State) : Runs 0 s s := rfl

theorem core_run_succ_iff {M : Host.Core} {n : Nat} {s t : M.State} :
    M.run (n + 1) s = .next t ↔ ∃ u, M.step s = .next u ∧ M.run n u = .next t := by
  simp only [Host.Core.run]
  cases M.step s <;> simp

theorem runs_succ_iff {n : Nat} {s t : State} : Runs (n + 1) s t ↔ ∃ u, step s = .next u ∧ Runs n u t := core_run_succ_iff

theorem runs_one_iff {s t : State} : Runs 1 s t ↔ step s = .next t := by
  rw [runs_succ_iff]
  exact ⟨by rintro ⟨_, h, ⟨⟩⟩; exact h, fun h => ⟨t, h, .refl t⟩⟩

theorem Runs.trans {m n : Nat} {s t u : State} (hm : Runs m s t) (hn : Runs n t u) : Runs (m + n) s u := by
  induction m generalizing s with
  | zero => cases hm; rwa [Nat.zero_add]
  | succ m ih =>
    obtain ⟨v, hstep, hrest⟩ := runs_succ_iff.mp hm
    rw [Nat.succ_add]
    exact runs_succ_iff.mpr ⟨v, hstep, ih hrest⟩

end Sys2Proof.Machine
end

section
/-! PROOFS (41_serializer, R110, R125 to R131). The DUMP command and the serializer's rows, one equation per row for a sink that takes a character. -/

namespace Sys2Proof.Machine

open Sys2Proof.Safety

/-! ## The command -/

theorem exec_dump_of_valid {s : State} (hu : s.unit = .idle) (hvalid : dumpValid s.capacity s.argA s.argB) :
    exec .dump s = .next (startDump s.argA s.argB s) :=
  (whenIdle_of hu : execDump s = _).trans (if_pos hvalid)

/-- Settles O15: the start of the command is one update, and a valid window is empty exactly when its ends are equal. -/
theorem dumpCommandStartsOrEndsAtOnce : Obligations.DumpCommandStartsOrEndsAtOnce := by
  unfold Obligations.DumpCommandStartsOrEndsAtOnce
  intro s hu hle hfit hstart hstop hlimit
  have hempty : s.argB ≤ s.argA ↔ s.argA = s.argB := by
    rw [BitVec.le_def, ← BitVec.toNat_inj]
    omega
  rw [exec_dump_of_valid hu ⟨hle, hfit, hstart, hstop, hlimit⟩, startDump_eq]
  simp only [hempty]

/-! ## Arithmetic of the window -/

/-- Byte `i` after address `a` of a window that starts at `start`, without wrap (R52, R124). -/
theorem windowIndex_add {a start : Word} {i : Nat} (hstart : start.toNat ≤ a.toNat + i) (hwrap : a.toNat + i < 2 ^ 32) :
    windowIndex (a + BitVec.ofNat 32 i) start = a.toNat + i - start.toNat := by
  have haddr : (a + BitVec.ofNat 32 i).toNat = a.toNat + i := by
    rw [BitVec.toNat_add, BitVec.toNat_ofNat]
    omega
  rw [windowIndex_of_le (by rwa [BitVec.le_def, haddr]), haddr]

/-- The test for the last line on numbers, without wrap (R131). -/
theorem lastLine_iff_toNat {s : State} (hwrap : s.sline.toNat + 16 < 2 ^ 32) : s.lastLine ↔ s.send.toNat ≤ s.sline.toNat + 16 := by
  rw [lastLine_iff, BitVec.le_def, BitVec.toNat_add_of_lt (by exact hwrap)]
  rfl

/-! ## The rows -/

theorem exec_sAddr {s : State} {k : AddrIdx} (hu : s.unit = .dump) (hpos : s.spos = posAddr k) (hroom : s.sinkRoom ≠ some 0) :
    exec (.sAddr k) s = .next { charPut (hexchar (addrDigit s.sline k.val)) s with spos := posAfterAddr k } :=
  whenSerializer_of hu hpos hroom

theorem exec_sColon {s : State} (hu : s.unit = .dump) (hpos : s.spos = posColon) (hroom : s.sinkRoom ≠ some 0) :
    exec .sColon s = .next { charPut chColon s with spos := posSpace 0 } :=
  whenSerializer_of hu hpos hroom

theorem exec_sSpace {s : State} {i : ByteIdx} (hu : s.unit = .dump) (hpos : s.spos = posSpace i) (hroom : s.sinkRoom ≠ some 0)
    (hstart : s.sstart.toNat ≤ s.sline.toNat + i.val) (hfit : s.sline.toNat + i.val - s.sstart.toNat < s.capacity)
    (hwrap : s.sline.toNat + i.val < 2 ^ 32) :
    exec (.sSpace i) s = .next { charPut chSp s with
      sbyte := s.imgByte (s.sline.toNat + i.val - s.sstart.toNat), spos := posHi i } := by
  rw [← windowIndex_add hstart hwrap] at hfit ⊢
  exact (whenSerializer_of hu hpos hroom).trans (latchStep_next_iff.mpr ⟨hfit, rfl⟩)

theorem exec_sHi {s : State} {i : ByteIdx} (hu : s.unit = .dump) (hpos : s.spos = posHi i) (hroom : s.sinkRoom ≠ some 0) :
    exec (.sHi i) s = .next { charPut (hexchar (hiNibble s.sbyte)) s with spos := posLo i } :=
  whenSerializer_of hu hpos hroom

theorem exec_sLo {s : State} {i : ByteIdx} (hu : s.unit = .dump) (hpos : s.spos = posLo i) (hroom : s.sinkRoom ≠ some 0) :
    exec (.sLo i) s = .next { charPut (hexchar (loNibble s.sbyte)) s with spos := posAfterLo i } :=
  whenSerializer_of hu hpos hroom

theorem exec_sEol_last {s : State} (hu : s.unit = .dump) (hpos : s.spos = posEol) (hroom : s.sinkRoom ≠ some 0) (hlast : s.lastLine) :
    exec .sEol s = .next (finish (charPut chLt s)) :=
  (whenSerializer_of hu hpos hroom).trans (endLineStep_next_iff.mpr (.inl ⟨hlast, rfl⟩))

theorem exec_sEol_more {s : State} (hu : s.unit = .dump) (hpos : s.spos = posEol) (hroom : s.sinkRoom ≠ some 0) (hmore : ¬ s.lastLine) :
    exec .sEol s = .next { charPut chLt s with sline := s.sline + 16#32, spos := 0 } :=
  (whenSerializer_of hu hpos hroom).trans (endLineStep_next_iff.mpr (.inr ⟨hmore, rfl⟩))

/-- Settles O29: the rows of the address digits and of the colon. -/
theorem addressAndColonAreEmitted : Obligations.AddressAndColonAreEmitted := by
  unfold Obligations.AddressAndColonAreEmitted
  exact ⟨fun _ _ hu hpos => exec_sAddr hu (Fin.ext hpos), fun _ => exec_sColon⟩

/-- Settles O30: the row of the space, whose index does not wrap. -/
theorem spaceIsEmittedAndByteLatched : Obligations.SpaceIsEmittedAndByteLatched := by
  unfold Obligations.SpaceIsEmittedAndByteLatched
  exact fun _ _ hu hpos => exec_sSpace hu (Fin.ext hpos)

/-- Settles O31: the rows of the two digits. -/
theorem byteDigitsAreEmitted : Obligations.ByteDigitsAreEmitted := by
  unfold Obligations.ByteDigitsAreEmitted
  exact ⟨fun _ _ hu hpos => exec_sHi hu (Fin.ext hpos), fun _ _ hu hpos => exec_sLo hu (Fin.ext hpos)⟩

/-- Settles O32: the line feed after the last line, and after any other. -/
theorem lineFeedEndsLineOrDump : Obligations.LineFeedEndsLineOrDump := by
  unfold Obligations.LineFeedEndsLineOrDump
  intro s hu hpos hroom hwrap
  by_cases hlast : s.send.toNat ≤ s.sline.toNat + 16
  · rw [if_pos hlast, exec_sEol_last hu hpos hroom ((lastLine_iff_toNat hwrap).mpr hlast)]
    rfl
  · rw [if_neg hlast, exec_sEol_more hu hpos hroom (mt (lastLine_iff_toNat hwrap).mp hlast)]
    rfl

end Sys2Proof.Machine
end

section
/-! PROOFS (41_serializer, R105, R120 to R124). A DUMP into a sink without limit emits `dumptext`: the digits, the colon and the bytes of a line,
the line feed, and then by induction the lines of the window. -/

namespace Sys2Proof.Machine

open Sys2Proof.Safety

/-! ## Lengths -/

theorem lineText_length (a : Word) (src : Nat → Byte) : (lineText a src).length = 56 := by
  simp [lineText, hex6, lineBytes, hex2]

theorem linesText_length (n : Nat) (a : Word) (src : Nat → Byte) : (linesText n a src).length = 56 * n := by
  induction n generalizing a src with
  | zero => rfl
  | succ n ih => rw [linesText, List.length_append, lineText_length, ih, Nat.mul_succ, Nat.add_comm]

/-! ## The lines that are left -/

/-- A DUMP into a sink without limit, with `n` lines from `sline` to the end of its window, which lies in the image. -/
structure DumpLines (n : Nat) (s : State) : Prop where
  unit : s.unit = .dump
  sink : s.sinkRoom = none
  start : s.sstart.toNat ≤ s.sline.toNat
  stop : s.send.toNat = s.sline.toNat + 16 * n
  fit : s.send.toNat - s.sstart.toNat ≤ s.capacity
  limit : s.send.toNat ≤ 0x1000000

/-- The byte at address `sline + j` of a DUMP (R124). -/
def lineSrc (s : State) (j : Nat) : Byte := s.imgByte (s.sline.toNat + j - s.sstart.toNat)

theorem DumpLines.ready {n : Nat} {s : State} (h : DumpLines n s) : s.sinkRoom ≠ some 0 := by simp [h.sink]

/-- The test of R131 counts the lines that are left. -/
theorem DumpLines.lastLine_iff {n : Nat} {s : State} (h : DumpLines n s) : s.lastLine ↔ n ≤ 1 := by
  have hstop := h.stop
  have hlimit := h.limit
  rw [lastLine_iff_toNat (by omega)]
  omega

/-! ## Characters handed over -/

/-- `s` after its sink has taken `text`, at position `pos` of the line and with byte `b` latched. -/
def emitted (text : List Byte) (pos : LinePos) (b : Byte) (s : State) : State :=
  { s with output := s.output ++ text, spos := pos, sbyte := b }

theorem emitted_nil {s : State} {pos : LinePos} (hpos : s.spos = pos) : emitted [] pos s.sbyte s = s := by
  simp [emitted, ← hpos]

theorem emitted_append (x y : List Byte) (p q : LinePos) (b c : Byte) (s : State) :
    emitted (x ++ y) q c s = emitted y q c (emitted x p b s) := by
  simp [emitted]

/-- What is left does not depend on the place within the line. -/
theorem DumpLines.emit {n : Nat} {s : State} (h : DumpLines n s) (text : List Byte) (pos : LinePos) (b : Byte) :
    DumpLines n (emitted text pos b s) :=
  ⟨h.unit, h.sink, h.start, h.stop, h.fit, h.limit⟩

theorem Runs.emits {m n : Nat} {s : State} {x y : List Byte} {p q : LinePos} {b c : Byte} (hx : Runs m s (emitted x p b s))
    (hy : Runs n (emitted x p b s) (emitted y q c (emitted x p b s))) : Runs (m + n) s (emitted (x ++ y) q c s) := by
  rw [emitted_append x y p q b c]
  exact hx.trans hy

/-! ## One step -/

/-- A row that emits one character and goes on to `next`. -/
theorem runs_row {n : Nat} {s : State} {i : Instr} {c : Byte} {pos next : LinePos} (h : DumpLines n s) (hpos : s.spos = pos)
    (hdecode : decodeSpos (sposCode pos) = .ok i) (hexec : exec i s = .next { charPut c s with spos := next }) :
    Runs 1 s (emitted [c] next s.sbyte s) := by
  rw [runs_one_iff, step_spos h.unit hpos hdecode, hexec]
  simp [emitted, charPut, h.sink]

theorem runs_sAddr {n : Nat} {s : State} {k : AddrIdx} (h : DumpLines n s) (hpos : s.spos = posAddr k) :
    Runs 1 s (emitted [hexchar (addrDigit s.sline k.val)] (posAfterAddr k) s.sbyte s) :=
  runs_row h hpos (decodeSpos_posAddr k) (exec_sAddr h.unit hpos h.ready)

theorem runs_sColon {n : Nat} {s : State} (h : DumpLines n s) (hpos : s.spos = posColon) :
    Runs 1 s (emitted [chColon] (posSpace 0) s.sbyte s) :=
  runs_row h hpos rfl (exec_sColon h.unit hpos h.ready)

/-- The byte latched lies in the image, since a whole line is left (R124). -/
theorem runs_sSpace {n : Nat} {s : State} {i : ByteIdx} (h : DumpLines (n + 1) s) (hpos : s.spos = posSpace i) :
    Runs 1 s (emitted [chSp] (posHi i) (lineSrc s i.val) s) := by
  have hready := h.ready
  obtain ⟨hu, hsink, hstart, hstop, hfit, hlimit⟩ := h
  have hi : i.val < 16 := i.isLt
  rw [runs_one_iff, step_spos hu hpos (decodeSpos_posSpace i), exec_sSpace hu hpos hready (by omega) (by omega) (by omega)]
  simp [emitted, charPut, hsink, lineSrc]

theorem runs_sHi {n : Nat} {s : State} {i : ByteIdx} (h : DumpLines n s) (hpos : s.spos = posHi i) :
    Runs 1 s (emitted [hexchar (hiNibble s.sbyte)] (posLo i) s.sbyte s) :=
  runs_row h hpos (decodeSpos_posHi i) (exec_sHi h.unit hpos h.ready)

theorem runs_sLo {n : Nat} {s : State} {i : ByteIdx} (h : DumpLines n s) (hpos : s.spos = posLo i) :
    Runs 1 s (emitted [hexchar (loNibble s.sbyte)] (posAfterLo i) s.sbyte s) :=
  runs_row h hpos (decodeSpos_posLo i) (exec_sLo h.unit hpos h.ready)

/-! ## A line -/

/-- The first `m` address digits (R122). -/
theorem runs_digits {n : Nat} {s : State} (h : DumpLines n s) (hpos : s.spos = 0) (m : Nat) (hm : m ≤ 6) :
    Runs m s (emitted ((List.range m).map (fun k => hexchar (addrDigit s.sline k))) ⟨m, by omega⟩ s.sbyte s) := by
  induction m with
  | zero => exact (emitted_nil hpos).symm ▸ Runs.refl s
  | succ m ih =>
    rw [List.range_succ, List.map_append]
    exact (ih (by omega)).emits (runs_sAddr (k := ⟨m, hm⟩) (h.emit ..) rfl)

/-- The space and the digits of byte `i` (R120, R123). -/
theorem runs_byte {n : Nat} {s : State} {i : ByteIdx} (h : DumpLines (n + 1) s) (hpos : s.spos = posSpace i) :
    Runs 3 s (emitted (chSp :: hex2 (lineSrc s i.val)) (posAfterLo i) (lineSrc s i.val) s) :=
  ((runs_sSpace h hpos).emits (runs_sHi (h.emit ..) rfl)).emits (runs_sLo (h.emit ..) rfl)

/-- The first `m` bytes of a line (R120). -/
theorem runs_bytes {n : Nat} {s : State} (h : DumpLines (n + 1) s) (hpos : s.spos = posSpace 0) (m : Nat) (hm : m ≤ 16) :
    ∃ b, Runs (3 * m) s (emitted ((List.range m).flatMap (fun i => chSp :: hex2 (lineSrc s i))) ⟨7 + 3 * m, by omega⟩ b s) := by
  induction m with
  | zero => exact ⟨s.sbyte, (emitted_nil hpos).symm ▸ Runs.refl s⟩
  | succ m ih =>
    obtain ⟨b, hrun⟩ := ih (by omega)
    have hnext : (⟨7 + 3 * (m + 1), by omega⟩ : LinePos) = posAfterLo ⟨m, hm⟩ := Fin.ext (by
      show 7 + 3 * (m + 1) = 7 + 3 + 3 * m
      omega)
    rw [List.range_succ, List.flatMap_append, List.flatMap_singleton, hnext]
    exact ⟨lineSrc s m, hrun.emits (runs_byte (i := ⟨m, hm⟩) (h.emit ..) rfl)⟩

/-- A line up to its line feed (R120). -/
theorem runs_lineBody {n : Nat} {s : State} (h : DumpLines (n + 1) s) (hpos : s.spos = 0) :
    ∃ b, Runs 55 s (emitted (hex6 s.sline ++ [chColon] ++ lineBytes (lineSrc s)) posEol b s) := by
  have hcolon := (runs_digits h hpos 6 (Nat.le_refl _)).emits (runs_sColon (h.emit ..) rfl)
  obtain ⟨b, hbytes⟩ := runs_bytes (h.emit (hex6 s.sline ++ [chColon]) (posSpace 0) s.sbyte) rfl 16 (Nat.le_refl _)
  exact ⟨b, hcolon.emits hbytes⟩

/-- The last line ends the DUMP (R131). -/
theorem runs_lastLine {s : State} (h : DumpLines 1 s) (hpos : s.spos = 0) :
    ∃ b, Runs 56 s { emitted (lineText s.sline (lineSrc s)) posEol b s with unit := .idle } := by
  obtain ⟨b, hbody⟩ := runs_lineBody h hpos
  have heol := h.emit (hex6 s.sline ++ [chColon] ++ lineBytes (lineSrc s)) posEol b
  refine ⟨b, hbody.trans (runs_one_iff.mpr ?_)⟩
  rw [step_spos heol.unit rfl rfl, exec_sEol_last heol.unit rfl heol.ready (heol.lastLine_iff.mpr (Nat.le_refl _))]
  simp [finish, charPut, emitted, lineText, h.sink]

/-- Any other line is followed by the next one (R131). -/
theorem runs_line {n : Nat} {s : State} (h : DumpLines (n + 2) s) (hpos : s.spos = 0) :
    ∃ b, Runs 56 s { emitted (lineText s.sline (lineSrc s)) 0 b s with sline := s.sline + 16#32 } := by
  obtain ⟨b, hbody⟩ := runs_lineBody h hpos
  have heol := h.emit (hex6 s.sline ++ [chColon] ++ lineBytes (lineSrc s)) posEol b
  refine ⟨b, hbody.trans (runs_one_iff.mpr ?_)⟩
  rw [step_spos heol.unit rfl rfl, exec_sEol_more heol.unit rfl heol.ready (mt heol.lastLine_iff.mp (by omega))]
  simp [charPut, emitted, lineText, h.sink]

/-! ## The window -/

theorem DumpLines.sline_next {n : Nat} {s : State} (h : DumpLines (n + 1) s) : (s.sline + 16#32).toNat = s.sline.toNat + 16 := by
  have hstop := h.stop
  have hlimit := h.limit
  rw [BitVec.toNat_add, BitVec.toNat_ofNat]
  omega

/-- After a line that is not the last the next one begins, with one line less left. -/
theorem DumpLines.next {n : Nat} {s : State} (h : DumpLines (n + 2) s) (text : List Byte) (b : Byte) :
    DumpLines (n + 1) { emitted text 0 b s with sline := s.sline + 16#32 } := by
  have hnext := h.sline_next
  obtain ⟨hu, hsink, hstart, hstop, hfit, hlimit⟩ := h
  refine ⟨hu, hsink, ?_, ?_, hfit, hlimit⟩
  · exact hnext ▸ Nat.le_add_right_of_le hstart
  · show s.send.toNat = (s.sline + 16#32).toNat + _
    omega

theorem DumpLines.lineSrc_next {n : Nat} {s : State} (h : DumpLines (n + 1) s) (text : List Byte) (b : Byte) :
    lineSrc { emitted text 0 b s with sline := s.sline + 16#32 } = fun j => lineSrc s (16 + j) := by
  funext j
  show s.imgByte ((s.sline + 16#32).toNat + j - s.sstart.toNat) = s.imgByte (s.sline.toNat + (16 + j) - s.sstart.toNat)
  rw [h.sline_next, Nat.add_assoc]

/-- The lines that are left are emitted, and the unit is idle (R120, R131). -/
theorem runs_lines {n : Nat} {s : State} (h : DumpLines (n + 1) s) (hpos : s.spos = 0) :
    ∃ a b, Runs (56 * (n + 1)) s { emitted (linesText (n + 1) s.sline (lineSrc s)) posEol b s with unit := .idle, sline := a } := by
  induction n generalizing s with
  | zero =>
    obtain ⟨b, hrun⟩ := runs_lastLine h hpos
    rw [linesText, linesText, List.append_nil]
    exact ⟨s.sline, b, hrun⟩
  | succ n ih =>
    obtain ⟨b, hline⟩ := runs_line h hpos
    obtain ⟨a, c, hrest⟩ := ih (h.next (lineText s.sline (lineSrc s)) b) rfl
    rw [h.lineSrc_next] at hrest
    refine ⟨a, c, ?_⟩
    rw [linesText, emitted_append _ _ 0 _ b, Nat.mul_succ, Nat.add_comm]
    exact hline.trans hrest

theorem startDump_lines {n : Nat} {start stop : Word} {s : State} (hsink : s.sinkRoom = none) (hvalid : dumpValid s.capacity start stop)
    (hn : (stop.toNat - start.toNat) / 16 = n + 1) : DumpLines (n + 1) (startDump start stop s) := by
  obtain ⟨hle, hfit, hstart, hstop, hlimit⟩ := dumpValid_iff.mp hvalid
  have hne : ¬ stop ≤ start := by
    rw [BitVec.le_def]
    omega
  have hlines : stop.toNat = start.toNat + 16 * (n + 1) := by omega
  simp only [startDump_eq, if_neg hne]
  exact ⟨rfl, hsink, Nat.le_refl _, hlines, hfit, hlimit⟩

/-- At the start of the command the line's source is the image from its first byte (R124). -/
theorem lineSrc_startDump (start stop : Word) (s : State) : lineSrc (startDump start stop s) = s.imgByte := by
  funext j
  rw [lineSrc, startDump_sline, startDump_sstart, Nat.add_sub_cancel_left, imgByte_congr (startDump_img ..)]

/-- Settles O51: the window has no line, and the command ends at once, or it has `n + 1` lines, and they are emitted by `runs_lines`. -/
theorem dumpCommandEmitsDumpText : Obligations.DumpCommandEmitsDumpText := by
  unfold Obligations.DumpCommandEmitsDumpText
  intro s hu hsink hvalid
  have hlength : (dumpText s s.argA s.argB).length = 56 * ((s.argB.toNat - s.argA.toNat) / 16) := linesText_length ..
  cases hn : (s.argB.toNat - s.argA.toNat) / 16 with
  | zero =>
    have hempty : s.argB ≤ s.argA := by
      obtain ⟨_, _, _, _, _⟩ := dumpValid_iff.mp hvalid
      rw [BitVec.le_def]
      omega
    have htext : dumpText s s.argA s.argB = [] := List.eq_nil_of_length_eq_zero (by rw [hlength, hn])
    refine ⟨_, _, exec_dump_of_valid hu hvalid, .refl _, ?_, ?_, ?_, ?_⟩
    · simp [hempty]
    · simp [htext]
    · simp [htext]
    · simp [startDump_eq, hempty, ← hu]
  | succ n =>
    obtain ⟨a, b, hrun⟩ := runs_lines (startDump_lines hsink hvalid hn) (startDump_spos ..)
    have htext : linesText (n + 1) s.argA s.imgByte = dumpText s s.argA s.argB := by rw [dumpText, Config.lineBytes_val, hn]
    rw [startDump_sline, lineSrc_startDump, htext] at hrun
    refine ⟨_, _, exec_dump_of_valid hu hvalid, hrun, rfl, ?_, ?_, ?_⟩
    · simp [emitted]
    · rw [hlength, hn]
    · simp [emitted, startDump_eq, ← hu]

end Sys2Proof.Machine
end

section
/-! PROOFS (42_parser, R141 to R156). The parser as the table of R141: the state and the class of the symbol select the rule. A step of a running
LOAD is that rule, run after the symbol is consumed; the statements about single symbols are entries of the table. -/

namespace Sys2Proof.Machine

open Sys2Proof.Safety

/-! ## The ten hex rows of a state -/

/-- The rule of a hex digit in each state (R143, R149, R153). -/
def hexRule : PState → Nibble → State → Result
  | .address => aHexStep
  | .byteHighNibble => hHexStep
  | .byteLowNibble => lHexStep

/-- The digit of a hex row (R76). -/
def rowDigit : Instr → Option Nibble
  | .aHex07 lo | .hHex07 lo | .lHex07 lo => some (lo.zeroExtend 4)
  | .aHex89 lo | .hHex89 lo | .lHex89 lo => some (8#4 + lo.zeroExtend 4)
  | .aHexUA | .hHexUA | .lHexUA | .aHexLA | .hHexLA | .lHexLA => some 10#4
  | .aHexUBUC lo | .hHexUBUC lo | .lHexUBUC lo | .aHexLBLC lo | .hHexLBLC lo | .lHexLBLC lo => some (11#4 + lo.zeroExtend 4)
  | .aHexUDUE lo | .hHexUDUE lo | .lHexUDUE lo | .aHexLDLE lo | .hHexLDLE lo | .lHexLDLE lo => some (13#4 + lo.zeroExtend 4)
  | .aHexUF | .hHexUF | .lHexUF | .aHexLF | .hHexLF | .lHexLF => some 15#4
  | _ => none

theorem hexval_ch07 (lo : BitVec 3) : hexval (ch07 lo) = lo.zeroExtend 4 := by revert lo; decide

theorem hexval_ch89 (lo : BitVec 1) : hexval (ch89 lo) = 8#4 + lo.zeroExtend 4 := by revert lo; decide

theorem hexval_chUBUC (lo : BitVec 1) : hexval (chUBUC lo) = 11#4 + lo.zeroExtend 4 := by revert lo; decide

theorem hexval_chUDUE (lo : BitVec 1) : hexval (chUDUE lo) = 13#4 + lo.zeroExtend 4 := by revert lo; decide

theorem hexval_chLBLC (lo : BitVec 1) : hexval (chLBLC lo) = 11#4 + lo.zeroExtend 4 := by revert lo; decide

theorem hexval_chLDLE (lo : BitVec 1) : hexval (chLDLE lo) = 13#4 + lo.zeroExtend 4 := by revert lo; decide

/-- A hex row runs the rule of its state with its digit. -/
theorem exec_hexRow {i : Instr} {d : Nibble} {p : PState} (s : State) (hdigit : rowDigit i = some d) (hrow : rowState i = some p) :
    exec i s = whenParser p (hexRule p d) s := by
  have digit {ch : Byte} {e : Nibble} (h : hexval ch = e) :
      whenParser p (hexRule p (hexval ch)) s = whenParser p (hexRule p e) s := by rw [h]
  cases i <;> cases hdigit <;> cases hrow
  case aHex07 lo | hHex07 lo | lHex07 lo => exact digit (hexval_ch07 lo)
  case aHex89 lo | hHex89 lo | lHex89 lo => exact digit (hexval_ch89 lo)
  case aHexUBUC lo | hHexUBUC lo | lHexUBUC lo => exact digit (hexval_chUBUC lo)
  case aHexUDUE lo | hHexUDUE lo | lHexUDUE lo => exact digit (hexval_chUDUE lo)
  case aHexLBLC lo | hHexLBLC lo | lHexLBLC lo => exact digit (hexval_chLBLC lo)
  case aHexLDLE lo | hHexLDLE lo | lHexLDLE lo => exact digit (hexval_chLDLE lo)
  all_goals rfl

theorem exec_hexRow_of {i : Instr} {d : Nibble} {p : PState} {s : State} (hu : s.unit = .load) (hp : s.pstate = p)
    (hdigit : rowDigit i = some d) (hrow : rowState i = some p) : exec i s = hexRule p d s :=
  (exec_hexRow s hdigit hrow).trans (whenParser_of hu hp)

theorem isLHex_row {i : Instr} (h : isLHex i = true) : ∃ d, rowDigit i = some d ∧ rowState i = some .byteLowNibble := by
  cases i <;> cases h <;> exact ⟨_, rfl, rfl⟩

/-! ## The table -/

/-- R141's table: the rule for a symbol of class `k` with the character `ch`, met in state `p`. -/
def symRule : PState → SymClass → Byte → State → Result
  | _, .eof, _ => errorStep .unknown
  | p, .hex, ch => hexRule p (hexval ch)
  | _, .sp, _ => skipStep
  | .address, .colon, _ => aColonStep
  | .address, .lt, _ => aLtStep
  | .byteHighNibble, .lt, _ => hLtStep
  | .byteLowNibble, .lt, _ => errorStep .trunc
  | _, _, ch => errorStep (.syntaxError ch)

/-- The row a symbol selects runs the table's rule. -/
theorem exec_decodeSym {p : PState} {s : State} (hu : s.unit = .load) (hp : s.pstate = p) (c : Sym) :
    exec (decodeSym p c) s = symRule p (classify c) (symCh c) s := by
  have hch : symCh ((symPat c).sym c) = symCh c := by rw [sym_symPat]
  rw [← hch, classify]
  cases p <;> simp only [decodeSym, decodeAddress, decodeHigh, decodeLow] <;> cases symPat c <;>
    simp only [SymPat.sym, symCh_charSym, symCh_eofSym]
  case address.eof | byteHighNibble.eof | byteLowNibble.eof => exact whenLoading_of hu
  all_goals exact whenParser_of hu hp

/-- A running LOAD consumes the next symbol and runs the table's rule. -/
theorem step_sym {p : PState} {s : State} {c : Sym} {rest : List Sym} (hu : s.unit = .load) (hp : s.pstate = p)
    (hin : s.input = c :: rest) : step s = symRule p (classify c) (symCh c) { s with input := rest } := by
  subst hp
  rw [step_symGet hu (symGet_some_iff.mpr (.inl ⟨rest, hin, rfl⟩))]
  exact exec_decodeSym (s := { s with input := rest }) hu rfl c

theorem symRule_eof (p : PState) (ch : Byte) : symRule p .eof ch = errorStep .unknown := by cases p <;> rfl

theorem symRule_sp (p : PState) (ch : Byte) : symRule p .sp ch = skipStep := by cases p <;> rfl

/-- In a byte state a colon is as illegal as a character of class `OTHER` (R152, R156). -/
theorem symRule_illegal {p : PState} {k : SymClass} (ch : Byte) (hp : p ≠ .address) (hk : k = .colon ∨ k = .other) :
    symRule p k ch = errorStep (.syntaxError ch) := by
  cases p
  case address => exact absurd rfl hp
  all_goals obtain rfl | rfl := hk <;> rfl

/-! ## The start of a LOAD -/

theorem exec_load_of_valid {s : State} (hu : s.unit = .idle) (hvalid : loadValid s.capacity s.argA s.argB) :
    exec .load s = .next (startLoad s.argA s.argB s) :=
  (whenIdle_of hu : execLoad s = _).trans (if_pos hvalid)

/-- Settles O14: the start of the command is one update. -/
theorem loadCommandInitialisesParser : Obligations.LoadCommandInitialisesParser := by
  unfold Obligations.LoadCommandInitialisesParser
  exact fun s hu hle hfit => exec_load_of_valid hu ⟨hle, hfit⟩

/-! ## Symbols that every state treats alike -/

theorem step_eof {s : State} {c : Sym} {rest : List Sym} (hu : s.unit = .load) (hin : s.input = c :: rest) (hc : classify c = .eof) :
    step s = .next { s with input := rest, pstatus := .stUnknown, unit := .idle } := by
  rw [step_sym hu rfl hin, hc, symRule_eof]
  rfl

/-- Settles O17: the table has one entry for the sentinel in all three states. -/
theorem sentinelEndsTheLoad : Obligations.SentinelEndsTheLoad := by
  unfold Obligations.SentinelEndsTheLoad
  exact ⟨fun s ch hu => whenLoading_of hu, fun s c rest => step_eof⟩

/-- Settles O19: the table has one entry for the space in all three states. -/
theorem spacesAreIgnored : Obligations.SpacesAreIgnored := by
  unfold Obligations.SpacesAreIgnored
  refine ⟨fun s => whenParser_of, fun s => whenParser_of, fun s => whenParser_of, fun s rest hu hin => ?_⟩
  have hclass : classify 0x020#9 = .sp := by decide
  rw [step_sym hu rfl hin, hclass, symRule_sp]
  rfl

/-! ## State ADDRESS -/

/-- Settles O18: each of the ten rows, and any hex symbol, runs the rule of the address digit. -/
theorem addressDigitShiftsIn : Obligations.AddressDigitShiftsIn := by
  unfold Obligations.AddressDigitShiftsIn
  refine ⟨fun s a b hu hp => ?rows, fun s c rest hu hp hin hc => ?step⟩
  case rows =>
    have row {i : Instr} {d : Nibble} (hd : rowDigit i = some d) (hi : rowState i = some .address) : exec i s = aHexStep d s :=
      exec_hexRow_of hu hp hd hi
    intro next
    and_intros <;> exact row rfl rfl
  case step =>
    rw [step_sym hu hp hin, hc]
    rfl

/-- Settles O20: the rule of the colon in ADDRESS. -/
theorem colonStartsTheBytes : Obligations.ColonStartsTheBytes := by
  unfold Obligations.ColonStartsTheBytes
  exact ⟨fun s => whenParser_of, fun s rest hu hp hin => step_sym hu hp hin⟩

/-- A line terminator in ADDRESS as one answer (R146). -/
theorem aLtStep_eq (s : State) :
    aLtStep s = .next (if s.pseen = false then s else { s with pstatus := .stOk, unit := .idle }) := by
  unfold aLtStep
  cases s.pseen <;> rfl

/-- Settles O21: the rule of the line terminator in ADDRESS, with or without a digit seen. -/
theorem blankLineSkipsOrEnds : Obligations.BlankLineSkipsOrEnds := by
  unfold Obligations.BlankLineSkipsOrEnds
  exact ⟨fun s hu hp => (whenParser_of hu hp : execALt s = _).trans (aLtStep_eq s),
    fun s rest hu hp hin => (step_sym hu hp hin).trans (aLtStep_eq { s with input := rest })⟩

/-- Settles O22: the table's entry for a character of class `OTHER` records it. -/
theorem illegalCharacterInAddress : Obligations.IllegalCharacterInAddress := by
  unfold Obligations.IllegalCharacterInAddress
  refine ⟨fun s ch => whenParser_of, fun s c rest hu hp hin hc => ?_⟩
  rw [step_sym hu hp hin, hc]
  rfl

/-! ## State BYTE_HIGH_NIBBLE -/

theorem highNibble_eq_append (d : Nibble) : highNibble d = d ++ 0#4 := by revert d; decide

theorem hHexStep_eq (d : Nibble) (s : State) : hHexStep d s = .next { s with pbyte := d ++ 0#4, pstate := .byteLowNibble } := by
  rw [hHexStep, highNibble_eq_append]

/-- Settles O23: each of the ten rows, and any hex symbol, runs the rule of the first digit. -/
theorem firstDigitIsHighNibble : Obligations.FirstDigitIsHighNibble := by
  unfold Obligations.FirstDigitIsHighNibble
  refine ⟨fun s a b hu hp => ?rows, fun s c rest hu hp hin hc => ?step⟩
  case rows =>
    have row {i : Instr} {d : Nibble} (hd : rowDigit i = some d) (hi : rowState i = some .byteHighNibble) :
        exec i s = .next { s with pbyte := d ++ 0#4, pstate := .byteLowNibble } :=
      (exec_hexRow_of hu hp hd hi).trans (hHexStep_eq d s)
    intro next
    and_intros <;> exact row rfl rfl
  case step =>
    rw [step_sym hu hp hin, hc]
    exact hHexStep_eq _ _

/-- Settles O24: the rule of the line terminator before a byte. -/
theorem lineEndForgetsTheAddress : Obligations.LineEndForgetsTheAddress := by
  unfold Obligations.LineEndForgetsTheAddress
  exact ⟨fun s => whenParser_of, fun s rest hu hp hin => step_sym hu hp hin⟩

theorem step_illegal {p : PState} {s : State} {c : Sym} {rest : List Sym} (hu : s.unit = .load) (hp : s.pstate = p)
    (hbyte : p ≠ .address) (hin : s.input = c :: rest) (hc : classify c = .colon ∨ classify c = .other) :
    step s = .next { s with input := rest, perrch := symCh c, pstatus := .stSyntax, unit := .idle } := by
  rw [step_sym hu hp hin, symRule_illegal (symCh c) hbyte hc]
  rfl

/-- Settles O25: the two rows and the table's entry for a byte state. -/
theorem illegalCharacterBeforeByte : Obligations.IllegalCharacterBeforeByte := by
  unfold Obligations.IllegalCharacterBeforeByte
  exact ⟨fun s => whenParser_of, fun s ch => whenParser_of, fun s c rest hu hp => step_illegal hu hp nofun⟩

/-! ## State BYTE_LOW_NIBBLE -/

/-- Inside a window that fits the image the completed byte is stored at `paddr - pstart` (R153). -/
theorem lHexStep_inside {s : State} (hfit : s.pend.toNat - s.pstart.toNat ≤ s.capacity) (hstart : s.pstart.toNat ≤ s.paddr.toNat)
    (hstop : s.paddr.toNat < s.pend.toNat) (d : Nibble) :
    lHexStep d s = .next { s with
      pbyte := s.pbyte ||| d.zeroExtend 8, paddr := s.paddr + 1#32, pcount := s.pcount + 1#32, pstate := .byteHighNibble,
      img := s.img.write (s.paddr.toNat - s.pstart.toNat) (s.pbyte ||| d.zeroExtend 8) } := by
  rw [← windowIndex_of_le hstart]
  exact lHexStep_next_iff.mpr (.inl ⟨⟨hstart, hstop⟩, windowIndex_lt hfit hstart hstop, rfl⟩)

/-- Outside the window the byte is completed and the load ends (R153). -/
theorem lHexStep_outside {s : State} (hout : s.paddr.toNat < s.pstart.toNat ∨ s.pend.toNat ≤ s.paddr.toNat) (d : Nibble) :
    lHexStep d s = .next { s with pbyte := s.pbyte ||| d.zeroExtend 8, pstatus := .stRange, unit := .idle } := by
  refine lHexStep_next_iff.mpr (.inr ⟨fun hw => ?_, rfl⟩)
  obtain ⟨hstart, hstop⟩ := hw
  exact hout.elim (Nat.not_lt.mpr hstart) (Nat.not_le.mpr hstop)

/-- Settles O26: each of the ten rows inside and outside the window, and any hex symbol inside it. -/
theorem secondDigitStoresOrRangeError : Obligations.SecondDigitStoresOrRangeError := by
  unfold Obligations.SecondDigitStoresOrRangeError
  refine ⟨fun s a b hu hp hfit hstart hstop => ?inside, fun s c rest hu hp hin hc hfit hstart hstop => ?step,
    fun s a b hu hp hout => ?outside⟩
  case inside =>
    have row {i : Instr} {d : Nibble} (hd : rowDigit i = some d) (hi : rowState i = some .byteLowNibble) :=
      (exec_hexRow_of hu hp hd hi).trans (lHexStep_inside hfit hstart hstop d)
    intro next
    and_intros <;> exact row rfl rfl
  case step =>
    rw [step_sym hu hp hin, hc]
    exact ⟨_, lHexStep_inside (s := { s with input := rest }) hfit hstart hstop _, hu, rfl, rfl, rfl, rfl, rfl,
      imgByte_write_same s _ _, fun a ha => imgByte_write_other s _ ha⟩
  case outside =>
    have row {i : Instr} {d : Nibble} (hd : rowDigit i = some d) (hi : rowState i = some .byteLowNibble) :=
      (exec_hexRow_of hu hp hd hi).trans (lHexStep_outside hout d)
    intro next
    and_intros <;> exact row rfl rfl

/-- Settles O27: the rule of the line terminator inside a byte. -/
theorem lineEndInsideByteIsTruncation : Obligations.LineEndInsideByteIsTruncation := by
  unfold Obligations.LineEndInsideByteIsTruncation
  exact ⟨fun s => whenParser_of, fun s rest hu hp hin => step_sym hu hp hin⟩

/-- Settles O28: the two rows and the table's entry for a byte state. -/
theorem illegalCharacterInsideByte : Obligations.IllegalCharacterInsideByte := by
  unfold Obligations.IllegalCharacterInsideByte
  exact ⟨fun s => whenParser_of, fun s ch => whenParser_of, fun s c rest hu hp => step_illegal hu hp nofun⟩

end Sys2Proof.Machine
end

section
/-! PROOFS (42_parser, R153, R157 to R160, R240). What a step of a running LOAD can do: it stores at most one byte, at the index of `paddr` in the
window; it goes on loading or ends with a result. A source that delivers the sentinel therefore ends the load. -/

namespace Sys2Proof.Safety

open Sys2Proof.Machine

/-! ## The store -/

/-- An L.HEX row is the rule of the second digit for a LOAD in that state. -/
theorem exec_lHex_next {i : Instr} {s t : State} (hi : isLHex i = true) (h : exec i s = .next t) : ∃ d, lHexStep d s = .next t := by
  obtain ⟨d, hdigit, hrow⟩ := isLHex_row hi
  rw [exec_hexRow s hdigit hrow] at h
  exact ⟨d, (whenParser_next_iff.mp h).2⟩

/-- An instruction leaves the image or writes one byte of it, at the index of `paddr` in the window (R153). -/
theorem exec_img_cases {i : Instr} {s t : State} (h : exec i s = .next t) :
    t.img = s.img ∨ s.inWindow ∧ ∃ b, t.img = s.img.write (windowIndex s.paddr s.pstart) b := by
  cases hi : isLHex i with
  | false => exact .inl (exec_img hi h)
  | true =>
    obtain ⟨d, hstep⟩ := exec_lHex_next hi h
    obtain ⟨hw, _, rfl⟩ | ⟨_, rfl⟩ := lHexStep_next_iff.mp hstep
    · exact .inr ⟨hw, _, rfl⟩
    · exact .inl (raiseLoadError_img ..)

/-- Settles O37: the one byte written is at the window's index, and the rule of the second digit has its frame. -/
theorem secondDigitFrame : Obligations.SecondDigitFrame := by
  unfold Obligations.SecondDigitFrame
  intro i s t hi h
  refine ⟨fun a ha => ?byte, ?registers⟩
  case byte =>
    obtain himg | ⟨hw, b, himg⟩ := exec_img_cases h
    · exact imgByte_congr himg a
    · calc t.imgByte a = ({ s with img := s.img.write (windowIndex s.paddr s.pstart) b } : State).imgByte a := imgByte_congr himg a
        _ = s.imgByte a := imgByte_write_other s b (ha hw)
  case registers =>
    obtain ⟨_, hstep⟩ := exec_lHex_next hi h
    rw [lHexStep_frame hstep]

/-! ## A step of a running LOAD -/

theorem isParserStep_decodeSym (p : PState) (c : Sym) : isParserStep (decodeSym p c) = true := by
  obtain ⟨_, heof⟩ | hrow := decodeSym_selects p c
  · rw [heof]; rfl
  · generalize decodeSym p c = i at hrow
    cases i <;> cases hrow <;> rfl

/-- Consuming a symbol changes the source alone. -/
theorem symGet_frame {s t : State} {c : Sym} (h : symGet s = some (c, t)) : t = { s with input := t.input } := by
  obtain ⟨_, _, rfl⟩ | ⟨_, _, _, rfl⟩ := symGet_some_iff.mp h <;> rfl

/-- A step of a running LOAD waits, or consumes a symbol and runs its row (R141, R240). -/
theorem step_load_cases {s t : State} (hu : s.unit = .load) (h : step s = .next t) :
    t = s ∨ ∃ c s', symGet s = some (c, s') ∧ exec (decodeSym s.pstate c) s' = .next t := by
  cases hget : symGet s with
  | none =>
    have hwait : fetch s = .waiting := by simp [fetch_load hu, fetchSym, hget]
    rw [step_of_waiting hwait] at h
    cases h
    exact .inl rfl
  | some r =>
    obtain ⟨c, s'⟩ := r
    exact .inr ⟨c, s', rfl, step_symGet hu hget ▸ h⟩

/-- Settles O49: the window's index of an address in the window is below its size, which `Inv` bounds. -/
theorem loadStoresInsideItsWindow : Obligations.LoadStoresInsideItsWindow := by
  unfold Obligations.LoadStoresInsideItsWindow
  intro s t hinv hu h
  obtain ⟨_, ⟨_, hfit⟩, _⟩ := (inv_iff_of_load hu).mp hinv
  refine ⟨?_, hfit⟩
  obtain rfl | ⟨c, s', hget, hexec⟩ := step_load_cases hu h
  · exact .inl rfl
  · have himg := exec_img_cases hexec
    rw [symGet_frame hget] at himg
    refine himg.imp_right fun ⟨hw, b, hwrite⟩ => ⟨_, b, ?_, hwrite⟩
    exact windowIndex_lt (Nat.le_refl _) hw.1 hw.2

/-! ## The end of a LOAD -/

/-- A parser step goes on loading, or ends the load with a result (R160). -/
theorem exec_parser_ends {i : Instr} {s t : State} (hi : isParserStep i = true) (h : exec i s = .next t) :
    t.unit = .load ∨ t.unit = .idle ∧ t.pstatus ≠ .stNone := by
  obtain ⟨hu, rfl | ⟨_, _, _, rfl⟩ | ⟨_, rfl⟩ | ⟨_, _, _, rfl⟩ | ⟨_, rfl, _⟩ | ⟨_, _, rfl⟩ | ⟨_, _, rfl⟩ | ⟨_, _, _, hstore⟩⟩ :=
    exec_parser_cases hi h
  · exact .inl hu
  · exact .inl hu
  · exact .inl hu
  · exact .inr ⟨rfl, nofun⟩
  · exact .inr ⟨raiseLoadError_unit .., raiseLoadError_pstatus_ne _ _⟩
  · exact .inl hu
  · exact .inl hu
  · obtain ⟨_, _, rfl⟩ | ⟨_, rfl⟩ := lHexStep_next_iff.mp hstore
    · exact .inl hu
    · exact .inr ⟨rfl, nofun⟩

/-- A running LOAD with `Inv` consumes the next symbol, and goes on or ends with a result. -/
theorem step_consumes {s : State} {c : Sym} {rest : List Sym} (hinv : Inv s) (hu : s.unit = .load) (hin : s.input = c :: rest) :
    ∃ t, step s = .next t ∧ t.input = rest ∧ t.inputEnded = s.inputEnded ∧ (t.unit = .load ∨ t.unit = .idle ∧ t.pstatus ≠ .stNone) := by
  obtain ⟨t, h⟩ := step_load_progress hu hinv
  have hexec := h
  rw [step_symGet hu (symGet_some_iff.mpr (.inl ⟨rest, hin, rfl⟩))] at hexec
  have hparser := isParserStep_decodeSym s.pstate c
  have hframe := exec_parser_frame hparser hexec
  exact ⟨t, h, by rw [hframe], by rw [hframe], exec_parser_ends hparser hexec⟩

theorem step_ended {s : State} (hu : s.unit = .load) (hin : s.input = []) (hend : s.inputEnded = true) :
    step s = .next { s with pstatus := .stUnknown, unit := .idle } := by
  rw [step_symGet hu (symGet_some_iff.mpr (.inr ⟨hin, hend, rfl, rfl⟩)), decodeSym_eofSym]
  exact whenLoading_of hu

/-- By induction on the symbols to come: each step consumes one and ends the load or leaves a fair source; the sentinel ends it. -/
theorem runs_to_result {syms : List Sym} {s : State} (hin : s.input = syms) (hinv : Inv s) (hu : s.unit = .load) (hfair : SourceFair s) :
    ∃ n t, n ≤ syms.length + 1 ∧ Runs n s t ∧ t.unit = .idle ∧ t.pstatus ≠ .stNone := by
  induction syms generalizing s with
  | nil =>
    have hend : s.inputEnded = true := hfair.resolve_right (by simp [hin])
    exact ⟨1, _, Nat.le_refl _, runs_one_iff.mpr (step_ended hu hin hend), rfl, nofun⟩
  | cons c rest ih =>
    by_cases hc : classify c = .eof
    · exact ⟨1, _, Nat.le_add_left .., runs_one_iff.mpr (step_eof hu hin hc), rfl, nofun⟩
    · obtain ⟨t, hstep, hrest, hended, hload | hdone⟩ := step_consumes hinv hu hin
      · have hfair' : SourceFair t := by
          rw [SourceFair, hended, hrest]
          exact hfair.imp_right fun hsome => by simpa [hin, hc] using hsome
        obtain ⟨n, u, hn, hruns, hidle⟩ := ih hrest (stepKeepsInvariant s t hinv hstep) hload hfair'
        exact ⟨n + 1, u, Nat.succ_le_succ hn, runs_succ_iff.mpr ⟨t, hstep, hruns⟩, hidle⟩
      · exact ⟨1, t, Nat.le_add_left .., runs_one_iff.mpr hstep, hdone⟩

/-- Settles O53: the source's list is what is still to come. -/
theorem fairSourceEndsTheLoad : Obligations.FairSourceEndsTheLoad := by
  unfold Obligations.FairSourceEndsTheLoad
  exact fun s hinv hu hfair => runs_to_result rfl hinv hu hfair

end Sys2Proof.Safety
end

section
/-! PROOFS (42_parser, R161). The text of a dump loads back. A line's digits give its address, since it has no more than 24 bits; each byte of the
line is then assembled from its two digits and stored at the next index of the window; by induction the lines fill the window. -/

namespace Sys2Proof.Machine

open Sys2Proof.Safety

/-! ## Digits -/

/-- The last digit shifted into what is above it gives the word back. -/
theorem shiftInDigit_shift (x : Word) : shiftInDigit (x >>> 4) (x.setWidth 4) = x := by
  ext i hi
  simp only [shiftInDigit, Config.digitBits_val]
  grind

/-- With digit `k` the accumulator holds one digit more of the address (R122, R143). -/
theorem shiftInDigit_addrDigit (a : Word) {k : Nat} (hk : k < 6) :
    shiftInDigit (a >>> (4 * (6 - k))) (addrDigit a k) = a >>> (4 * (6 - (k + 1))) := by
  have hleft : 6 - (k + 1) = 5 - k := by omega
  have hmore : 4 * (6 - k) = 4 * (5 - k) + 4 := by omega
  rw [hleft, hmore, BitVec.shiftRight_add]
  exact shiftInDigit_shift _

theorem ushiftRight_24_of_lt {a : Word} (h : a.toNat < 0x1000000) : a >>> 24 = 0#32 := by
  apply BitVec.eq_of_toNat_eq
  rw [BitVec.toNat_ushiftRight, Nat.shiftRight_eq_div_pow]
  exact Nat.div_eq_of_lt h

theorem withLowNibble_nibbles (b : Byte) : withLowNibble (highNibble (hiNibble b)) (loNibble b) = b := by revert b; decide

theorem classify_hexchar (n : Nibble) : classify (charSym (hexchar n)) = .hex :=
  (classify_charSym_hex_iff _).mpr (isHexDigit_hexchar n)

/-! ## Characters consumed -/

/-- The characters of `text` lead a LOAD from `s` to `t`, one step each, whatever the source holds after them. -/
def Reads (text : List Byte) (s t : State) : Prop :=
  ∀ rest, Runs text.length { s with input := charSyms text ++ rest } { t with input := rest }

theorem Reads.refl (s : State) : Reads [] s s := fun _ => .refl _

theorem Reads.append {x y : List Byte} {s t u : State} (hx : Reads x s t) (hy : Reads y t u) : Reads (x ++ y) s u := by
  intro rest
  rw [charSyms, List.map_append, List.append_assoc, List.length_append]
  exact (hx _).trans (hy rest)

/-- One character runs the rule of its class, which does not see the source. -/
theorem reads_char {s t : State} {c : Byte} (hu : s.unit = .load)
    (hrule : ∀ rest, symRule s.pstate (classify (charSym c)) c { s with input := rest } = .next { t with input := rest }) :
    Reads [c] s t := by
  intro rest
  rw [List.length_singleton, runs_one_iff]
  have hstep := step_sym (s := { s with input := charSym c :: rest }) hu rfl rfl
  rw [symCh_charSym] at hstep
  exact hstep.trans (hrule rest)

/-- A digit runs the rule of a hex digit of its state. -/
theorem reads_digit {p : PState} {s t : State} {d : Nibble} (hu : s.unit = .load) (hp : s.pstate = p)
    (hrule : ∀ rest, hexRule p d { s with input := rest } = .next { t with input := rest }) : Reads [hexchar d] s t := by
  subst hp
  refine reads_char hu fun rest => ?_
  rw [classify_hexchar, symRule, hexval_hexchar]
  exact hrule rest

/-! ## The address of a line -/

/-- The first `m` address digits, from a cleared accumulator (R143). -/
theorem reads_digits {s : State} {a : Word} (hu : s.unit = .load) (hp : s.pstate = .address) (haddr : s.paddr = 0#32)
    (hlt : a.toNat < 0x1000000) (m : Nat) (hm : m ≤ 6) :
    Reads ((List.range m).map (fun k => hexchar (addrDigit a k))) s
      { s with paddr := a >>> (4 * (6 - m)), pseen := s.pseen || decide (0 < m) } := by
  induction m with
  | zero =>
    have hstart : s = { s with paddr := a >>> (4 * (6 - 0)), pseen := s.pseen || decide (0 < 0) } := by
      simp [ushiftRight_24_of_lt hlt, ← haddr]
    exact hstart ▸ Reads.refl s
  | succ m ih =>
    rw [List.range_succ, List.map_append]
    refine (ih (by omega)).append (reads_digit hu hp fun rest => ?_)
    simp [hexRule, aHexStep, setSeen, shiftInDigit_addrDigit a hm]

/-- The address and the colon of a line (R145). -/
theorem reads_address {s : State} {a : Word} (hu : s.unit = .load) (hp : s.pstate = .address) (haddr : s.paddr = 0#32)
    (hlt : a.toNat < 0x1000000) :
    Reads (hex6 a ++ [chColon]) s { s with paddr := a, pseen := true, pstate := .byteHighNibble } := by
  have hdigits := reads_digits hu hp haddr hlt 6 (Nat.le_refl _)
  have hall : a >>> (4 * (6 - 6)) = a := BitVec.ushiftRight_zero a
  rw [hall, decide_eq_true (by decide : 0 < 6), Bool.or_true] at hdigits
  refine hdigits.append (reads_char hu fun rest => ?_)
  rw [hp]
  rfl

/-! ## The window filled so far -/

/-- A LOAD of the window `[start, stop)`, which fits the image, has stored and counted its first `j` bytes, those of `src`. -/
structure Loaded (start stop : Word) (src : Nat → Byte) (j : Nat) (s : State) : Prop where
  unit : s.unit = .load
  pstart : s.pstart = start
  pend : s.pend = stop
  fit : stop.toNat - start.toNat ≤ s.capacity
  count : s.pcount = BitVec.ofNat 32 j
  bytes : ∀ i, i < j → s.imgByte i = src i

/-- It is at the start of a line (R151). -/
structure AtLine (start stop : Word) (src : Nat → Byte) (j : Nat) (s : State) : Prop extends Loaded start stop src j s where
  pstate : s.pstate = .address
  paddr : s.paddr = 0#32

/-- It is inside a line, before its next byte. -/
structure InLine (start stop : Word) (src : Nat → Byte) (j : Nat) (s : State) : Prop extends Loaded start stop src j s where
  pstate : s.pstate = .byteHighNibble
  paddr : s.paddr.toNat = start.toNat + j
  pseen : s.pseen = true

section

variable {start stop : Word} {src : Nat → Byte} {j : Nat} {s : State}

theorem startLoad_atLine (hfit : stop.toNat - start.toNat ≤ s.capacity) : AtLine start stop src 0 (startLoad start stop s) :=
  ⟨⟨rfl, rfl, rfl, hfit, rfl, nofun⟩, rfl, rfl⟩

/-- `s` after the next byte of its line has been stored (R149, R153). -/
def stored (j : Nat) (b : Byte) (s : State) : State :=
  { s with img := s.img.write j b, pbyte := b, paddr := s.paddr + 1#32, pcount := s.pcount + 1#32, pstate := .byteHighNibble }

/-- A space and the two digits of a byte store it at the next index (R123, R150, R153). -/
theorem reads_byte (h : InLine start stop src j s) (hlt : start.toNat + j < stop.toNat) (b : Byte) :
    Reads (chSp :: hex2 b) s (stored j b s) := by
  obtain ⟨⟨hu, rfl, rfl, hfit, _, _⟩, hp, haddr, _⟩ := h
  have hspace : Reads [chSp] s s := reads_char hu fun rest => by rw [hp]; rfl
  have hdigit : Reads [hexchar (hiNibble b)] s { s with pbyte := highNibble (hiNibble b), pstate := .byteLowNibble } :=
    reads_digit hu hp fun rest => rfl
  refine (hspace.append hdigit).append (reads_digit hu rfl fun rest => ?_)
  have hindex : s.paddr.toNat - s.pstart.toNat = j := by omega
  have hlow : s.pstart.toNat ≤ s.paddr.toNat := by omega
  have hhigh : s.paddr.toNat < s.pend.toNat := by omega
  have hstep := lHexStep_inside (s := { s with pbyte := highNibble (hiNibble b), pstate := .byteLowNibble, input := rest })
    hfit hlow hhigh (loNibble b)
  have hbyte : highNibble (hiNibble b) ||| (loNibble b).zeroExtend 8 = b := withLowNibble_nibbles b
  simpa [hexRule, stored, hindex, hbyte] using hstep

/-- With the byte of `src` one byte more is loaded. -/
theorem InLine.next (h : InLine start stop src j s) (hlt : start.toNat + j < stop.toNat) :
    InLine start stop src (j + 1) (stored j (src j) s) := by
  obtain ⟨⟨hu, hstart, hstop, hfit, hcount, hbytes⟩, _, haddr, hseen⟩ := h
  refine ⟨⟨hu, hstart, hstop, hfit, ?count, fun i hi => ?bytes⟩, rfl, ?addr, hseen⟩
  case count =>
    show s.pcount + 1#32 = _
    rw [hcount, BitVec.ofNat_add]
  case bytes =>
    by_cases hij : i = j
    · exact hij ▸ imgByte_write_same s i _
    · exact (imgByte_write_other s _ hij).trans (hbytes i (by omega))
  case addr =>
    show (s.paddr + 1#32).toNat = _
    have hmax := stop.isLt
    rw [BitVec.toNat_add, BitVec.toNat_ofNat]
    omega

/-- The first `m` bytes of a line (R120). -/
theorem reads_bytes (h : InLine start stop src j s) (m : Nat) (hm : start.toNat + j + m ≤ stop.toNat) :
    ∃ t, Reads ((List.range m).flatMap (fun i => chSp :: hex2 (src (j + i)))) s t ∧ InLine start stop src (j + m) t := by
  induction m with
  | zero => exact ⟨s, .refl s, h⟩
  | succ m ih =>
    obtain ⟨t, hreads, ht⟩ := ih (by omega)
    have hlt : start.toNat + (j + m) < stop.toNat := by omega
    rw [List.range_succ, List.flatMap_append, List.flatMap_singleton]
    exact ⟨_, hreads.append (reads_byte ht hlt _), ht.next hlt⟩

/-- The line feed after the bytes of a line forgets the address and keeps what is loaded (R151). -/
theorem reads_lineFeed (h : InLine start stop src j s) : ∃ t, Reads [chLt] s t ∧ AtLine start stop src j t ∧ t.pseen = true := by
  obtain ⟨⟨hu, hstart, hstop, hfit, hcount, hbytes⟩, hp, _, hseen⟩ := h
  refine ⟨{ s with paddr := 0#32, pstate := .address }, reads_char hu fun rest => ?_,
    ⟨⟨hu, hstart, hstop, hfit, hcount, hbytes⟩, rfl, rfl⟩, hseen⟩
  rw [hp]
  rfl

/-- A line loads its 16 bytes; its address has no more than 24 bits, as every line of a DUMP has (R110). -/
theorem reads_line (h : AtLine start stop src j s) {a : Word} (ha : a.toNat = start.toNat + j) (hm : start.toNat + j + 16 ≤ stop.toNat)
    (hlimit : stop.toNat ≤ 0x1000000) :
    ∃ t, Reads (lineText a (fun i => src (j + i))) s t ∧ AtLine start stop src (j + 16) t ∧ t.pseen = true := by
  obtain ⟨⟨hu, hstart, hstop, hfit, hcount, hbytes⟩, hp, haddr⟩ := h
  have haddress := reads_address hu hp haddr (a := a) (by omega)
  have hin : InLine start stop src j { s with paddr := a, pseen := true, pstate := .byteHighNibble } :=
    ⟨⟨hu, hstart, hstop, hfit, hcount, hbytes⟩, rfl, ha, rfl⟩
  obtain ⟨t, hread, ht⟩ := reads_bytes hin 16 hm
  obtain ⟨u, hfeed, hline, hseen⟩ := reads_lineFeed ht
  exact ⟨u, (haddress.append hread).append hfeed, hline, hseen⟩

/-- The lines of a window load its bytes, from the first line that is left to the end. -/
theorem reads_lines {n : Nat} (h : AtLine start stop src j s) {a : Word} (ha : a.toNat = start.toNat + j)
    (hn : start.toNat + j + 16 * n = stop.toNat) (hlimit : stop.toNat ≤ 0x1000000) :
    ∃ t, Reads (linesText n a (fun i => src (j + i))) s t ∧ AtLine start stop src (j + 16 * n) t ∧
      (n ≠ 0 ∨ s.pseen = true → t.pseen = true) := by
  induction n generalizing j s a with
  | zero => exact ⟨s, .refl s, h, fun hseen => hseen.resolve_left (· rfl)⟩
  | succ n ih =>
    obtain ⟨t, hline, ht, hseen⟩ := reads_line h ha (by omega) hlimit
    have hnext : (a + 16#32).toNat = start.toNat + (j + 16) := by
      rw [BitVec.toNat_add, BitVec.toNat_ofNat]
      omega
    obtain ⟨u, hlines, hu, hkeep⟩ := ih ht hnext (by omega)
    simp only [Nat.add_assoc] at hlines
    refine ⟨u, hline.append hlines, ?_, fun _ => hkeep (.inr hseen)⟩
    rwa [show j + 16 * (n + 1) = j + 16 + 16 * n by omega]

end

/-! ## The load of a dump -/

/-- The text of a non-empty dump leaves the LOAD at the start of a line, with the whole window loaded and an address seen. -/
theorem reads_dumpText {m s : State} {start stop : Word} (hvalid : dumpValid s.capacity start stop) (hne : start ≠ stop) :
    ∃ t, Reads (dumpText m start stop) (startLoad start stop s) t ∧ AtLine start stop m.imgByte (stop.toNat - start.toNat) t ∧
      t.pseen = true := by
  obtain ⟨hle, hfit, hstart, hstop, hlimit⟩ := dumpValid_iff.mp hvalid
  have hne' : start.toNat ≠ stop.toNat := mt BitVec.eq_of_toNat_eq hne
  have hlines : 16 * ((stop.toNat - start.toNat) / 16) = stop.toNat - start.toNat := by omega
  obtain ⟨t, hreads, ht, hseen⟩ := reads_lines (src := m.imgByte) (n := (stop.toNat - start.toNat) / 16) (startLoad_atLine hfit) rfl
    (by omega) hlimit
  simp only [Nat.zero_add] at hreads ht
  exact ⟨t, hreads, hlines ▸ ht, hseen (.inl (by omega))⟩

/-- A load of a dump's text that one more symbol ends has the window's bytes and their count, and the rest of the source is left. -/
theorem load_dumpText {m s : State} {c : Sym} {rest : List Sym} {status : PStatus} (hu : s.unit = .idle)
    (hvalid : dumpValid s.capacity s.argA s.argB) (hne : s.argA ≠ s.argB)
    (hin : s.input = charSyms (dumpText m s.argA s.argB) ++ c :: rest)
    (hend : ∀ t : State, t.unit = .load → t.pstate = .address → t.pseen = true → t.input = c :: rest →
      step t = .next { t with input := rest, pstatus := status, unit := .idle }) :
    ∃ s1 t, exec .load s = .next s1 ∧ Runs ((dumpText m s.argA s.argB).length + 1) s1 t ∧ t.unit = .idle ∧ t.pstatus = status ∧
      t.pcount = s.argB - s.argA ∧ t.input = rest ∧ ∀ i, i < s.argB.toNat - s.argA.toNat → t.imgByte i = m.imgByte i := by
  obtain ⟨hle, hfit, _⟩ := dumpValid_iff.mp hvalid
  obtain ⟨t, hreads, ht, hseen⟩ := reads_dumpText (m := m) hvalid hne
  have hrun := hreads (c :: rest)
  rw [← hin] at hrun
  have hlast := hend { t with input := c :: rest } ht.unit ht.pstate hseen rfl
  have hcount : BitVec.ofNat 32 (s.argB.toNat - s.argA.toNat) = s.argB - s.argA := by
    rw [← BitVec.toNat_sub_of_le hle, BitVec.ofNat_toNat, BitVec.setWidth_eq]
  exact ⟨_, _, exec_load_of_valid hu ⟨hle, hfit⟩, hrun.trans (runs_one_iff.mpr hlast), rfl, rfl, ht.count.trans hcount, rfl, ht.bytes⟩

/-- An empty window: the line feed is skipped, and the sentinel ends the load (R142, R146). -/
theorem load_empty {s : State} {rest : List Sym} (hu : s.unit = .idle) (hvalid : loadValid s.capacity s.argA s.argB)
    (hin : s.input = charSym 0x0A#8 :: eofSym 0#8 :: rest) :
    ∃ s1 u t, exec .load s = .next s1 ∧ Runs 1 s1 u ∧ u.unit = .load ∧ Runs 2 s1 t ∧ t.unit = .idle ∧ t.pstatus = .stUnknown ∧
      t.pcount = 0#32 ∧ t.input = rest := by
  have hskip : Runs 1 (startLoad s.argA s.argB s) { startLoad s.argA s.argB s with input := eofSym 0#8 :: rest } :=
    runs_one_iff.mpr (step_sym (s := startLoad s.argA s.argB s) rfl rfl hin)
  have hend := step_eof (s := { startLoad s.argA s.argB s with input := eofSym 0#8 :: rest }) rfl rfl (classify_eofSym _)
  exact ⟨_, _, _, exec_load_of_valid hu hvalid, hskip, rfl, hskip.trans (runs_one_iff.mpr hend), rfl, rfl, rfl, rfl⟩

/-- Settles O52: a line feed after an address has been seen ends the load with ST_OK, the sentinel ends it with ST_UNKNOWN; an empty window has no
text. -/
theorem dumpTextLoadsBack : Obligations.DumpTextLoadsBack := by
  unfold Obligations.DumpTextLoadsBack
  intro m s rest hvalid hu
  refine ⟨fun hne hin => load_dumpText hu hvalid hne hin fun t hload hp hseen hnext => ?lineFeed,
    fun hne hin => load_dumpText hu hvalid hne hin fun t hload _ _ hnext => step_eof hload hnext (classify_eofSym _),
    fun heq hin => ⟨?text, load_empty hu ⟨hvalid.1, hvalid.2.1⟩ hin⟩⟩
  case lineFeed =>
    have hstep := (step_sym hload hp hnext).trans (aLtStep_eq { t with input := rest })
    simpa [hseen] using hstep
  case text =>
    rw [dumpText, heq, Nat.sub_self]
    rfl

end Sys2Proof.Machine
end

section
/-! PROOFS (43_crc, R181 to R183, R189). The length bytes and a run of zero bytes: recursion on the length, a byte of it at a time, and on the
number of zero bytes. -/

namespace Sys2Proof.Machine

/-! ## The length bytes -/

theorem toNat_ushiftRight_eight (n : Word) : (n >>> 8).toNat = n.toNat / 256 := by
  rw [BitVec.toNat_ushiftRight, Nat.shiftRight_eq_div_pow]

/-- The length loop's recursion (R182): a length that is not 0 is reached from what is left without its lowest byte. -/
theorem shiftByte_induction {P : Word → Prop} (zero : P 0#32) (more : ∀ n : Word, n ≠ 0#32 → P (n >>> 8) → P n) (n : Word) : P n := by
  by_cases hn : n = 0#32
  · exact hn ▸ zero
  · exact more n hn (shiftByte_induction zero more (n >>> 8))
termination_by n.toNat
decreasing_by
  rw [toNat_ushiftRight_eight]
  bv_omega

theorem lenBytes_eq_nil_iff {n : Word} : lenBytes n = [] ↔ n = 0#32 := by
  refine ⟨fun h => ?_, fun h => h ▸ lenBytes_zero⟩
  by_contra hn
  simp [lenBytes_of_ne hn] at h

theorem lenBytes_value (n : Word) : (lenBytes n).foldr (fun b acc => b.toNat + 256 * acc) 0 = n.toNat := by
  induction n using shiftByte_induction with
  | zero => rfl
  | more n hn ih =>
    rw [lenBytes_of_ne hn, List.foldr_cons, ih, toNat_ushiftRight_eight, BitVec.toNat_setWidth]
    exact Nat.mod_add_div ..

/-- The top byte of a length is not 0: above it nothing is left. -/
theorem lowByte_ne_zero {n : Word} (hn : n ≠ 0#32) (htop : n >>> 8 = 0#32) : n.setWidth 8 ≠ 0#8 := by
  have hsmall : n.toNat / 256 = 0 := by rw [← toNat_ushiftRight_eight, htop]; rfl
  bv_omega

theorem lenBytes_getLast_ne_zero {n : Word} {b : Byte} (h : (lenBytes n).getLast? = some b) : b ≠ 0#8 := by
  induction n using shiftByte_induction with
  | zero => cases h
  | more n hn ih =>
    rw [lenBytes_of_ne hn] at h
    by_cases htop : n >>> 8 = 0#32
    · rw [htop, lenBytes_zero, List.getLast?_singleton, Option.some.injEq] at h
      exact h ▸ lowByte_ne_zero hn htop
    · have hrest : lenBytes (n >>> 8) ≠ [] := mt lenBytes_eq_nil_iff.mp htop
      rw [List.getLast?_cons_of_ne_nil hrest] at h
      exact ih h

theorem lenBytesUpTo_length_le (fuel : Nat) (n : Word) : (lenBytesUpTo fuel n).length ≤ fuel := by
  induction fuel generalizing n with
  | zero => exact Nat.le_refl _
  | succ fuel ih =>
    rw [lenBytesUpTo]
    split
    · exact Nat.zero_le _
    · exact Nat.succ_le_succ (ih _)

/-- Settles O55: by recursion on the length for the value and the top byte; the loop turns at most 4 times. -/
theorem lengthBytesAreMinimalLittleEndian : Obligations.LengthBytesAreMinimalLittleEndian := by
  unfold Obligations.LengthBytesAreMinimalLittleEndian
  exact fun n => ⟨lenBytes_value n, fun _ => lenBytes_getLast_ne_zero, lenBytesUpTo_length_le 4 n⟩

/-! ## Zero bytes -/

theorem crcBytes_zeros (n : Nat) : crcBytes 0#32 (List.replicate n 0#8) = 0#32 := by
  induction n with
  | zero => rfl
  | succ n ih =>
    have hzero : crcByte 0#32 0#8 = 0#32 := crcByte_table_entries.1
    rw [List.replicate_succ, crcBytes_cons, hzero, ih]

/-- Settles O56: a zero byte leaves register 0, which is also the register's start (R8). -/
theorem leadingZeroBytesLeaveTheRegister : Obligations.LeadingZeroBytesLeaveTheRegister := by
  unfold Obligations.LeadingZeroBytesLeaveTheRegister
  refine fun n d => ⟨by rw [crcBytes_append, crcBytes_zeros], ?_⟩
  have hdata : crcBytes Config.crcInit (List.replicate n 0#8) = 0#32 := crcBytes_zeros n
  rw [crc32Len, crcResult_eq, hdata, List.length_replicate]

end Sys2Proof.Machine
end

section
/-! PROOFS (43_crc, R103, R111, R184 to R187). The CRC command and the CRC unit's rows, one equation per row. -/

namespace Sys2Proof.Machine

open Sys2Proof.Safety

theorem exec_crc_of_valid {s : State} (hu : s.unit = .idle) (hvalid : crcValid s.capacity s.argA) :
    exec .crc s = .next (startCrc s.argA s) :=
  (whenIdle_of hu : execCrc s = _).trans (if_pos hvalid)

/-- Settles O13: the start of a valid command is one update. -/
theorem crcCommandStartsUnit : Obligations.CrcCommandStartsUnit := by
  unfold Obligations.CrcCommandStartsUnit
  exact fun _ => exec_crc_of_valid

theorem exec_cByte {s : State} (hu : s.unit = .crc) (hph : s.cphase = .cData) (hindex : s.cidx.toNat < s.capacity) :
    exec .cByte s = .next { s with
      crc := crcByte s.crc (s.imgByte s.cidx.toNat), cidx := s.cidx + 1#32,
      cphase := if s.cidx + 1#32 = s.clen then .cLen else .cData } :=
  (whenCrc_of hu hph).trans (absorbStep_next_iff.mpr ⟨hindex, by rw [hph]⟩)

theorem exec_cLen {s : State} (hu : s.unit = .crc) (hph : s.cphase = .cLen) (hrem : s.crem ≠ 0#32) :
    exec .cLen s = .next { s with crc := crcByte s.crc (s.crem.setWidth 8), crem := s.crem >>> 8 } :=
  (whenCrc_of hu hph : execCLen s = _).trans (if_neg hrem)

/-- The register is delivered as it stands: no final exclusive OR (R8, R187). -/
theorem exec_cFin {s : State} (hu : s.unit = .crc) (hph : s.cphase = .cLen) (hrem : s.crem = 0#32) :
    exec .cFin s = .next { s with crcOut := s.crc, cphase := .cDone, unit := .idle } := by
  have hdeliver : exec .cFin s = deliverStep s := (whenCrc_of hu hph : execCFin s = _).trans (if_pos hrem)
  rw [hdeliver, deliverStep, crcResult_eq]
  rfl

/-- Settles O33: the row of a data byte. -/
theorem dataByteIsAbsorbed : Obligations.DataByteIsAbsorbed := by
  unfold Obligations.DataByteIsAbsorbed
  exact fun _ => exec_cByte

/-- Settles O34: the two rows of the length phase, and the length loop's turn that the first one takes. -/
theorem lengthIsFoldedInThenDelivered : Obligations.LengthIsFoldedInThenDelivered := by
  unfold Obligations.LengthIsFoldedInThenDelivered
  exact fun _ hu hph => ⟨fun hrem => ⟨exec_cLen hu hph hrem, lenBytes_of_ne hrem⟩, exec_cFin hu hph⟩

end Sys2Proof.Machine
end

section
/-! PROOFS (43_crc, R183 to R187). Every step keeps `CrcRunning`. Its clause speaks of a running CRC alone: the command makes it hold, the CRC
unit's rows keep it, and no other row leads to a running CRC. -/

namespace Sys2Proof.Safety

open Sys2Proof.Machine

theorem crcRunning_of_ne {s : State} (h : s.unit ≠ .crc) : CrcRunning s := fun hu => absurd hu h

/-! ## The start and the rules -/

/-- At the start nothing is absorbed; a length of 0 has neither data nor length bytes. -/
theorem startCrc_running (len : Word) (s : State) : CrcRunning (startCrc len s) := by
  intro _
  by_cases hlen : len = 0#32
  · subst hlen
    exact .inr ⟨rfl, rfl⟩
  · have hpos : 0 < len.toNat := Nat.pos_of_ne_zero fun h => hlen (BitVec.eq_of_toNat_eq h)
    exact .inl ⟨if_neg hlen, hpos, rfl, rfl⟩

/-- A data byte adds itself to the data absorbed; after the last one all the length bytes are still to come (R185). -/
theorem absorbStep_running {s t : State} (hu : s.unit = .crc) (hph : s.cphase = .cData) (hrun : CrcRunning s)
    (h : absorbStep s = .next t) : CrcRunning t := by
  obtain ⟨_, hlt, hrem, hcrc⟩ | ⟨hlen, _⟩ := hrun hu
  · obtain ⟨_, rfl⟩ := absorbStep_next_iff.mp h
    have hnext : (s.cidx + 1#32).toNat = s.cidx.toNat + 1 := by bv_omega
    have habsorbed : crcByte s.crc (s.imgByte s.cidx.toNat) = crcBytes Config.crcInit (imgPrefix s (s.cidx + 1#32).toNat) := by
      rw [hnext, imgPrefix_succ, crcBytes_append, ← hcrc]
      rfl
    intro _
    by_cases hend : s.cidx + 1#32 = s.clen
    · refine .inr ⟨if_pos hend, ?_⟩
      show crcBytes (crcByte s.crc (s.imgByte s.cidx.toNat)) (lenBytes s.crem) =
        crcBytes (crcBytes Config.crcInit (imgPrefix s s.clen.toNat)) (lenBytes s.clen)
      rw [habsorbed, hend, hrem]
    · refine .inl ⟨(if_neg hend).trans hph, ?_, hrem, habsorbed⟩
      show (s.cidx + 1#32).toNat < s.clen.toNat
      bv_omega
  · exact absurd (hph.symm.trans hlen) nofun

/-- Folding in the first of the length bytes that are left leaves the others (R186). -/
theorem foldLenStep_running {s : State} (hu : s.unit = .crc) (hph : s.cphase = .cLen) (hne : s.crem ≠ 0#32) (hrun : CrcRunning s) :
    CrcRunning { s with crc := crcByte s.crc (s.crem.setWidth 8), crem := s.crem >>> 8 } := by
  obtain ⟨hdata, _⟩ | ⟨_, hleads⟩ := hrun hu
  · exact absurd (hph.symm.trans hdata) nofun
  · rw [lenBytes_of_ne hne, crcBytes_cons] at hleads
    exact fun _ => .inr ⟨hph, hleads⟩

/-! ## The units -/

theorem exec_command_running {i : Instr} {s t : State} (hi : isCommand i = true) (h : exec i s = .next t) : CrcRunning t := by
  obtain ⟨hu, ⟨_, rfl⟩ | ⟨_, _, rfl⟩ | ⟨_, _, rfl⟩ | ⟨_, _, rfl⟩⟩ := exec_command_cases hi h
  · exact crcRunning_of_idle hu
  · exact startCrc_running s.argA s
  · exact crcRunning_of_ne nofun
  · refine crcRunning_of_ne ?_
    rw [startDump_unit]
    split <;> nofun

theorem exec_parser_running {i : Instr} {s t : State} (hi : isParserStep i = true) (h : exec i s = .next t) : CrcRunning t := by
  obtain hu | ⟨hu, _⟩ := exec_parser_ends hi h <;> exact crcRunning_of_ne (hu ▸ nofun)

theorem exec_serializer_running {i : Instr} {s t : State} (hi : isSerializerStep i = true) (h : exec i s = .next t) : CrcRunning t := by
  obtain ⟨hu, hcases⟩ := exec_serializer_cases hi h
  have hdump : s.unit ≠ .crc := hu ▸ nofun
  obtain rfl | ⟨_, _, rfl⟩ | ⟨_, _, hlatch⟩ | hend := hcases
  · exact crcRunning_of_ne hdump
  · exact crcRunning_of_ne hdump
  · obtain ⟨_, rfl⟩ := latchStep_next_iff.mp hlatch
    exact crcRunning_of_ne hdump
  · obtain ⟨_, rfl⟩ | ⟨_, rfl⟩ := endLineStep_next_iff.mp hend
    · exact crcRunning_of_idle rfl
    · exact crcRunning_of_ne hdump

theorem exec_crc_running {i : Instr} {s t : State} (hi : isCrcStep i = true) (hrun : CrcRunning s) (h : exec i s = .next t) :
    CrcRunning t := by
  obtain ⟨hu, ⟨hph, habsorb⟩ | ⟨hph, hne, rfl⟩ | ⟨_, _, _, rfl⟩⟩ := exec_crc_cases hi h
  · exact absorbStep_running hu hph hrun habsorb
  · exact foldLenStep_running hu hph hne hrun
  · exact crcRunning_of_idle rfl

theorem exec_running {i : Instr} {s t : State} (hrun : CrcRunning s) (h : exec i s = .next t) : CrcRunning t := by
  obtain hi | hi | hi | hi := instr_unit_cases i
  · exact exec_command_running hi h
  · exact exec_parser_running hi h
  · exact exec_serializer_running hi h
  · exact exec_crc_running hi hrun h

/-! ## The step -/

theorem fetch_written_running {s t : State} (h : fetch s = .written t) : CrcRunning t := by
  obtain ⟨hu, _, _, ⟨_, rfl⟩ | ⟨_, rfl⟩⟩ := fetch_written_iff.mp h <;> exact crcRunning_of_idle hu

theorem fetch_item_running {s t : State} {x : Item} (hrun : CrcRunning s) (h : fetch s = .item x t) : CrcRunning t := by
  obtain ⟨hu, _, _, _, _, rfl⟩ | ⟨hu, _, hget, _⟩ | ⟨_, _, rfl⟩ | ⟨_, _, rfl⟩ := fetch_item_iff.mp h
  · exact crcRunning_of_idle hu
  · rw [symGet_frame hget]
    exact crcRunning_of_ne (show s.unit ≠ .crc from hu ▸ nofun)
  · exact hrun
  · exact hrun

/-- Settles O47: a fetch leaves the CRC unit's registers, the CRC unit's rows keep the relation, and only the command leads into it. -/
theorem stepKeepsRunningCrc : Obligations.StepKeepsRunningCrc := by
  unfold Obligations.StepKeepsRunningCrc
  intro s t hrun h
  obtain ⟨_, rfl⟩ | hwritten | ⟨_, _, _, hfetch, _, hexec⟩ := step_next_iff.mp h
  · exact hrun
  · exact fetch_written_running hwritten
  · exact exec_running (fetch_item_running hrun hfetch) hexec

end Sys2Proof.Safety
end

section
/-! PROOFS (43_crc, R103, R183, R190). A CRC command from start to end. Each step takes one byte of those that are left, of the data and then of the
length; what the register holds meanwhile is `CrcRunning`, so after the last byte it holds the CRC of them all. -/

namespace Sys2Proof.Machine

open Sys2Proof.Safety

/-- How many bytes a running CRC still has to take: the data from `cidx` on and the bytes of the remaining length (R185, R186). -/
def crcBytesLeft (s : State) : Nat :=
  (if s.cphase = .cData then s.clen.toNat - s.cidx.toNat else 0) + (lenBytes s.crem).length

/-- A CRC command that started as `s₀`, with `n` bytes left: its registers hold what the bytes taken give, and all else is as at the start. -/
structure CrcCommand (s₀ : State) (n : Nat) (s : State) : Prop where
  unit : s.unit = .crc
  valid : crcValid s.capacity s.clen
  running : CrcRunning s
  left : crcBytesLeft s = n
  frame : s = { s₀ with unit := s.unit, crc := s.crc, cidx := s.cidx, crem := s.crem, cphase := s.cphase, crcOut := s.crcOut }

theorem startCrc_command {len : Word} {s : State} (hvalid : crcValid s.capacity len) :
    CrcCommand (startCrc len s) (len.toNat + (lenBytes len).length) (startCrc len s) := by
  refine ⟨rfl, hvalid, startCrc_running len s, ?_, rfl⟩
  by_cases hlen : len = 0#32
  · subst hlen
    rfl
  · simp [crcBytesLeft, hlen]

section

variable {s₀ s : State} {n : Nat}

/-- A row of the CRC unit that leaves it running with one byte fewer goes on with the command. -/
theorem CrcCommand.step_of_exec (h : CrcCommand s₀ (n + 1) s) {i : Instr} {t : State} (hi : isCrcStep i = true)
    (hexec : exec i s = .next t) (hu : t.unit = .crc) (hleft : crcBytesLeft t = n) : CrcCommand s₀ n t := by
  have hframe := exec_crc_frame hi hexec
  refine ⟨hu, ?_, exec_crc_running hi h.running hexec, hleft, ?_⟩
  · rw [capacity_congr (exec_crc_variant hi hexec), hframe]
    exact h.valid
  · rw [h.frame] at hframe
    exact hframe

/-- While bytes are left, a step takes one of them. -/
theorem CrcCommand.step_takes_byte (h : CrcCommand s₀ (n + 1) s) : ∃ t, step s = .next t ∧ CrcCommand s₀ n t := by
  have hu := h.unit
  have hleft := h.left
  obtain ⟨hph, hlt, hrem, _⟩ | ⟨hph, _⟩ := h.running hu
  · have hexec := exec_cByte hu hph (Nat.lt_of_lt_of_le hlt h.valid)
    refine ⟨_, (step_cphase hu hph rfl).trans hexec, h.step_of_exec rfl hexec hu ?_⟩
    simp only [crcBytesLeft, hph, if_true] at hleft ⊢
    by_cases hend : s.cidx + 1#32 = s.clen
    · rw [if_pos hend, if_neg nofun]
      bv_omega
    · rw [if_neg hend, if_pos rfl]
      bv_omega
  · have hne : s.crem ≠ 0#32 := fun hzero => by simp [crcBytesLeft, hph, hzero] at hleft
    have hexec := exec_cLen hu hph hne
    refine ⟨_, (step_cphase hu hph (by rw [beq_eq_false_iff_ne.mpr hne]; rfl)).trans hexec, h.step_of_exec rfl hexec hu ?_⟩
    simpa [crcBytesLeft, hph, lenBytes_of_ne hne] using hleft

theorem CrcCommand.runs {m : Nat} (h : CrcCommand s₀ (m + n) s) : ∃ t, Runs m s t ∧ CrcCommand s₀ n t := by
  induction m generalizing s with
  | zero => exact ⟨s, .refl s, Nat.zero_add n ▸ h⟩
  | succ m ih =>
    rw [Nat.succ_add] at h
    obtain ⟨u, hstep, hu⟩ := h.step_takes_byte
    obtain ⟨t, hruns, ht⟩ := ih hu
    exact ⟨t, runs_succ_iff.mpr ⟨u, hstep, hruns⟩, ht⟩

/-- With no byte left the register holds the CRC of the data and its length, and the step delivers it (R187). -/
theorem CrcCommand.step_delivers (h : CrcCommand s₀ 0 s) :
    step s = .next { s with crcOut := crc32Len (imgPrefix s s.clen.toNat), cphase := .cDone, unit := .idle } := by
  have hu := h.unit
  have hleft := h.left
  obtain ⟨hph, hlt, _⟩ | ⟨hph, hleads⟩ := h.running hu
  · simp only [crcBytesLeft, hph, if_true] at hleft
    omega
  · have hrem : s.crem = 0#32 := by simpa [crcBytesLeft, hph, lenBytes_eq_nil_iff] using hleft
    have hcrc : s.crc = crc32Len (imgPrefix s s.clen.toNat) := by
      rw [hrem, lenBytes_zero, crcBytes_nil] at hleads
      rw [hleads, crc32Len, crcResult_eq, imgPrefix_length, BitVec.ofNat_toNat, BitVec.setWidth_eq]
    rw [step_cphase (i := .cFin) hu hph (by rw [hrem]; rfl), exec_cFin hu hph hrem, hcrc]

end

/-- Settles O50: a byte per step, of the data and of the length, and one step more that delivers the register. -/
theorem crcCommandComputesCrc32Len : Obligations.CrcCommandComputesCrc32Len := by
  unfold Obligations.CrcCommandComputesCrc32Len
  intro s hu hvalid
  have hstart := startCrc_command hvalid
  obtain ⟨t, hruns, ht⟩ := hstart.runs (n := 0)
  refine ⟨_, _, exec_crc_of_valid hu hvalid, hruns.trans (runs_one_iff.mpr ht.step_delivers), rfl, ?result, ?frame, fun m hm => ?busy⟩
  case result =>
    rw [ht.frame]
    rfl
  case frame =>
    rw [ht.frame, ← hu]
    rfl
  case busy =>
    obtain ⟨k, hk⟩ := Nat.exists_eq_add_of_le (Nat.le_of_lt_succ hm)
    rw [hk] at hstart
    obtain ⟨u, hruns, hu⟩ := hstart.runs
    exact ⟨u, hruns, hu.unit⟩

end Sys2Proof.Machine
end

section
/-! PROOFS (reset and hazards, R230). The machine after reset is the one `State.resetOf` builds, whichever of its two forms a statement names. -/

namespace Sys2Proof.Machine

/-- `State.reset` is `State.resetOf` of the configured variant, so the two forms are one. -/
theorem eq_reset_or_exists_eq_resetOf_iff {r : State} : (r = State.reset ∨ ∃ v, r = State.resetOf v) ↔ ∃ v, r = State.resetOf v :=
  or_iff_right_of_imp fun h => ⟨Config.variant, h⟩

/-- Settles O57: `State.resetOf` writes each of these registers with its value of R230, before it looks at the variant. -/
theorem resetValuesOfTheTable : Obligations.ResetValuesOfTheTable := by
  unfold Obligations.ResetValuesOfTheTable
  intro r hr
  obtain ⟨v, rfl⟩ := eq_reset_or_exists_eq_resetOf_iff.mp hr
  exact ⟨rfl, rfl, rfl, rfl, rfl, rfl, rfl, rfl, rfl, rfl, rfl⟩

end Sys2Proof.Machine
end
